-- ==== Sys2Proof/Word.lean ====
section
/-! DEFINITION. The bit-vector types of RB-OCC: a storage byte (R22), a 32-bit word (R10) and a 64-bit command word (R60). -/

namespace Sys2Proof

/-- A storage byte (10_state.md R22). -/
abbrev Byte := BitVec 8

/-- A 32-bit word: `WORD_BYTES = 4` (00_scope.md R10); also the width of ARG and of the response fields. -/
abbrev Word := BitVec 32

/-- A 64-bit command word CMD (30_encoding.md R60). -/
abbrev CmdWord := BitVec 64

end Sys2Proof
end

