-- ==== Sys2Proof/Config.lean ====
section
/-! DEFINITION. The parameters of an RB-OCC block (00_scope.md R7 to R9) and the free values of a read that finds no value (60_exceptions.md R155). -/

namespace Sys2Proof

/-- The parameters of a block, fixed before reset (70_reset_and_hazards.md R170). `LOG2_CAP` is held as its
distance from 3, so that every `Config` lies in the range `3 <= LOG2_CAP <= 32` of 00_scope.md R7.
DESIGN CHOICE (log entry 1): the parameters stand in `State`, which no step changes them in. -/
structure Config where
  log2CapOver3 : Fin 30
  hasPopWord   : Bool
deriving DecidableEq, Repr

/-- `LOG2_CAP` (R7). -/
def Config.log2Cap (c : Config) : Nat := c.log2CapOver3.val + 3

/-- `CAP = 2^LOG2_CAP`, the storage size in bytes (R7). -/
def Config.cap (c : Config) : Nat := 2 ^ c.log2Cap

/-- `EFF_CAP = CAP - 1`, the effective capacity (R8). -/
def Config.effCap (c : Config) : Nat := c.cap - 1

/-- The reference parameters: `LOG2_CAP = 16` (R7) and no POP_WORD (R9). -/
def Config.reference : Config := { log2CapOver3 := 13, hasPopWord := false }

/-- FREE VALUE (log entries 10 and 11): the whole VALUE of a STORAGE_READ or POP_WORD that reads a byte holding no value: "The
model treats the returned VALUE as a free draw" (R155). The argument is the state's count of draws, so every draw is a fresh value. -/
opaque Config.freeWord : Nat → Word

end Sys2Proof
end

