-- ==== Sys2Proof/Syntax.lean ====
section
/-! DEFINITION. The ports (20_memory.md R45), the twelve opcodes (30_encoding.md R64) and `Instr`, the legal commands: one constructor per row of the opcode table. -/

namespace Sys2Proof

/-- The three ports (R45, R60). -/
inductive Port where
  | producer
  | consumer
  | control
deriving DecidableEq, Repr

/-- The twelve assigned values of the field OP (R64), by mnemonic. -/
inductive Opcode where
  | init
  | pushWord
  | registerWrites
  | contigSpaceAvailable
  | spaceAvailable
  | storageWrite
  | registerReads
  | contigSpaceUsed
  | spaceUsed
  | storageRead
  | popWord
  | getState
deriving DecidableEq, Repr

/-- A decoded command: a pair (port, CMD) of R60 that names a row of R64. A row that only one port may issue
(R65) implies its port; a row that any port may issue carries the port `p` its response goes back to. -/
inductive Instr where
  | init
  | pushWord (v : Word)
  | registerWrites (n : Word)
  | contigSpaceAvailable (p : Port)
  | spaceAvailable (p : Port)
  | storageWrite (a : Word) (b : Byte)
  | registerReads (n : Word)
  | contigSpaceUsed (p : Port)
  | spaceUsed (p : Port)
  | storageRead (a : Word)
  | popWord
  | getState (p : Port)
deriving DecidableEq, Repr

end Sys2Proof
end

