-- ==== Sys2Proof/WellFormed.lean ====
section
/-! DEFINITION. Which instructions a block with given parameters has: all of them, but POP_WORD only where `HAS_POP_WORD` is true (00_scope.md R9). -/

namespace Sys2Proof

/-- The block with parameters `c` has this command. The fields' widths and the port (R65) hold by the type `Instr`;
the one thing left to check is that POP_WORD "exists only when `HAS_POP_WORD` is true" (41_read.md R90). -/
def Instr.wf (c : Config) : Instr → Bool
  | .init => true
  | .pushWord _ => true
  | .registerWrites _ => true
  | .contigSpaceAvailable _ => true
  | .spaceAvailable _ => true
  | .storageWrite _ _ => true
  | .registerReads _ => true
  | .contigSpaceUsed _ => true
  | .spaceUsed _ => true
  | .storageRead _ => true
  | .popWord => c.hasPopWord
  | .getState _ => true

end Sys2Proof
end

