-- ==== Sys2Proof/Decode.lean ====
section
/-! DEFINITION. The command format CMD64 (30_encoding.md R61), the decoder of a pair (port, CMD) with the legality rules of R66 that read the word and the port, the encoder, and the opcode table as data. -/

namespace Sys2Proof

/-! ### The fields of CMD64 (R61) -/

/-- OP, bits 3:0. -/
def Cmd.op (w : CmdWord) : BitVec 4 := w.extractLsb' 0 4

/-- RSV0, bits 7:4, must be 0. -/
def Cmd.rsv0 (w : CmdWord) : BitVec 4 := w.extractLsb' 4 4

/-- BDATA, bits 15:8. -/
def Cmd.bdata (w : CmdWord) : Byte := w.extractLsb' 8 8

/-- RSV1, bits 31:16, must be 0. -/
def Cmd.rsv1 (w : CmdWord) : BitVec 16 := w.extractLsb' 16 16

/-- ARG, bits 63:32. -/
def Cmd.arg (w : CmdWord) : Word := w.extractLsb' 32 32

/-- The assembled word `CMD = {ARG, RSV1, BDATA, RSV0, OP}` with both reserved fields 0 (R61). -/
def Cmd.assemble (op : BitVec 4) (bdata : Byte) (arg : Word) : CmdWord :=
  arg ++ (0#16 ++ (bdata ++ (0#4 ++ op)))

/-! ### The opcode map (R64, R65) -/

/-- The value of OP that names the row (R64). -/
def Opcode.bits : Opcode → BitVec 4
  | .init => 0x0#4
  | .pushWord => 0x1#4
  | .registerWrites => 0x2#4
  | .contigSpaceAvailable => 0x3#4
  | .spaceAvailable => 0x4#4
  | .storageWrite => 0x5#4
  | .registerReads => 0x6#4
  | .contigSpaceUsed => 0x7#4
  | .spaceUsed => 0x8#4
  | .storageRead => 0x9#4
  | .popWord => 0xA#4
  | .getState => 0xB#4

/-- The row that OP selects; none for the reserved values 0xC to 0xF (R64). -/
def Opcode.ofBits (b : BitVec 4) : Option Opcode :=
  match b.toNat with
  | 0 => some .init
  | 1 => some .pushWord
  | 2 => some .registerWrites
  | 3 => some .contigSpaceAvailable
  | 4 => some .spaceAvailable
  | 5 => some .storageWrite
  | 6 => some .registerReads
  | 7 => some .contigSpaceUsed
  | 8 => some .spaceUsed
  | 9 => some .storageRead
  | 10 => some .popWord
  | 11 => some .getState
  | _ => none

/-- The one port that may issue the command; none where every port may (R65). -/
def Opcode.onlyPort : Opcode → Option Port
  | .init => some .control
  | .pushWord => some .producer
  | .registerWrites => some .producer
  | .contigSpaceAvailable => none
  | .spaceAvailable => none
  | .storageWrite => some .producer
  | .registerReads => some .consumer
  | .contigSpaceUsed => none
  | .spaceUsed => none
  | .storageRead => some .consumer
  | .popWord => some .consumer
  | .getState => none

/-- The port permission of R65. -/
def Opcode.permits (o : Opcode) (p : Port) : Bool :=
  match o.onlyPort with
  | none => true
  | some q => decide (p = q)

/-- The command reads ARG; every other command needs ARG = 0 (R66, condition 5). -/
def Opcode.usesArg : Opcode → Bool
  | .init => false
  | .pushWord => true
  | .registerWrites => true
  | .contigSpaceAvailable => false
  | .spaceAvailable => false
  | .storageWrite => true
  | .registerReads => true
  | .contigSpaceUsed => false
  | .spaceUsed => false
  | .storageRead => true
  | .popWord => false
  | .getState => false

/-- The command reads BDATA; every other command needs BDATA = 0 (R66, condition 4). -/
def Opcode.usesBdata : Opcode → Bool
  | .init => false
  | .pushWord => false
  | .registerWrites => false
  | .contigSpaceAvailable => false
  | .spaceAvailable => false
  | .storageWrite => true
  | .registerReads => false
  | .contigSpaceUsed => false
  | .spaceUsed => false
  | .storageRead => false
  | .popWord => false
  | .getState => false

/-- The instruction a legal command of this row stands for. -/
def Opcode.build (o : Opcode) (p : Port) (arg : Word) (bdata : Byte) : Instr :=
  match o with
  | .init => .init
  | .pushWord => .pushWord arg
  | .registerWrites => .registerWrites arg
  | .contigSpaceAvailable => .contigSpaceAvailable p
  | .spaceAvailable => .spaceAvailable p
  | .storageWrite => .storageWrite arg bdata
  | .registerReads => .registerReads arg
  | .contigSpaceUsed => .contigSpaceUsed p
  | .spaceUsed => .spaceUsed p
  | .storageRead => .storageRead arg
  | .popWord => .popWord
  | .getState => .getState p

/-! ### The decoder -/

/-- Why a command is illegal (R66, conditions 1 and 3 to 6). Condition 2, POP_WORD in a block without it, depends on the
parameters and is checked by POP_WORD's meaning (log entry 12); its effect is the same. -/
inductive IllegalReason where
  /-- Condition 1: OP is 0xC to 0xF. -/
  | reservedOpcode
  /-- Condition 3: RSV0 or RSV1 is not 0. -/
  | reservedField
  /-- Condition 4: BDATA is not 0 in a command that does not use it. -/
  | strayBdata
  /-- Condition 5: ARG is not 0 in a command that does not use it. -/
  | strayArg
  /-- Condition 6: the port may not issue the command. -/
  | wrongPort
deriving DecidableEq, Repr

/-- The decoder, total on every port and word: it "selects the row by `CMD[3:0]` alone, then checks the legality
conditions" (R64, R66). Which condition is named first has no effect on the machine. -/
def decode (p : Port) (w : CmdWord) : Except IllegalReason Instr :=
  match Opcode.ofBits (Cmd.op w) with
  | none => .error .reservedOpcode
  | some o =>
    if Cmd.rsv0 w ≠ 0#4 ∨ Cmd.rsv1 w ≠ 0#16 then .error .reservedField
    else if o.usesBdata = false ∧ Cmd.bdata w ≠ 0#8 then .error .strayBdata
    else if o.usesArg = false ∧ Cmd.arg w ≠ 0#32 then .error .strayArg
    else if o.permits p = false then .error .wrongPort
    else .ok (o.build p (Cmd.arg w) (Cmd.bdata w))

/-! ### The encoder -/

/-- The row of the instruction. -/
def Instr.opcode : Instr → Opcode
  | .init => .init
  | .pushWord _ => .pushWord
  | .registerWrites _ => .registerWrites
  | .contigSpaceAvailable _ => .contigSpaceAvailable
  | .spaceAvailable _ => .spaceAvailable
  | .storageWrite _ _ => .storageWrite
  | .registerReads _ => .registerReads
  | .contigSpaceUsed _ => .contigSpaceUsed
  | .spaceUsed _ => .spaceUsed
  | .storageRead _ => .storageRead
  | .popWord => .popWord
  | .getState _ => .getState

/-- The port the instruction arrives on and its response leaves on (R60, R65). -/
def Instr.port : Instr → Port
  | .init => .control
  | .pushWord _ => .producer
  | .registerWrites _ => .producer
  | .contigSpaceAvailable p => p
  | .spaceAvailable p => p
  | .storageWrite _ _ => .producer
  | .registerReads _ => .consumer
  | .contigSpaceUsed p => p
  | .spaceUsed p => p
  | .storageRead _ => .consumer
  | .popWord => .consumer
  | .getState p => p

/-- The field ARG (R64). -/
def Instr.arg : Instr → Word
  | .init => 0#32
  | .pushWord v => v
  | .registerWrites n => n
  | .contigSpaceAvailable _ => 0#32
  | .spaceAvailable _ => 0#32
  | .storageWrite a _ => a
  | .registerReads n => n
  | .contigSpaceUsed _ => 0#32
  | .spaceUsed _ => 0#32
  | .storageRead a => a
  | .popWord => 0#32
  | .getState _ => 0#32

/-- The field BDATA (R64). -/
def Instr.bdata : Instr → Byte
  | .init => 0#8
  | .pushWord _ => 0#8
  | .registerWrites _ => 0#8
  | .contigSpaceAvailable _ => 0#8
  | .spaceAvailable _ => 0#8
  | .storageWrite _ b => b
  | .registerReads _ => 0#8
  | .contigSpaceUsed _ => 0#8
  | .spaceUsed _ => 0#8
  | .storageRead _ => 0#8
  | .popWord => 0#8
  | .getState _ => 0#8

/-- The command (port, CMD) of an instruction (R60, R61, R64). -/
def encode (i : Instr) : Port × CmdWord :=
  (i.port, Cmd.assemble i.opcode.bits i.bdata i.arg)

/-! ### The opcode table as data -/

/-- A row of spec/opcode_table.json: a word matches when `CMD & mask = pattern` on the row's port (none: any port). -/
structure TableRow where
  opcode  : Opcode
  pattern : CmdWord
  mask    : CmdWord
  port    : Option Port
deriving DecidableEq, Repr

/-- spec/opcode_table.json, row by row. -/
def opcodeTable : List TableRow :=
  [ ⟨.init, 0x0000000000000000#64, 0xFFFFFFFFFFFFFFFF#64, some .control⟩,
    ⟨.pushWord, 0x0000000000000001#64, 0x00000000FFFFFFFF#64, some .producer⟩,
    ⟨.registerWrites, 0x0000000000000002#64, 0x00000000FFFFFFFF#64, some .producer⟩,
    ⟨.contigSpaceAvailable, 0x0000000000000003#64, 0xFFFFFFFFFFFFFFFF#64, none⟩,
    ⟨.spaceAvailable, 0x0000000000000004#64, 0xFFFFFFFFFFFFFFFF#64, none⟩,
    ⟨.storageWrite, 0x0000000000000005#64, 0x00000000FFFF00FF#64, some .producer⟩,
    ⟨.registerReads, 0x0000000000000006#64, 0x00000000FFFFFFFF#64, some .consumer⟩,
    ⟨.contigSpaceUsed, 0x0000000000000007#64, 0xFFFFFFFFFFFFFFFF#64, none⟩,
    ⟨.spaceUsed, 0x0000000000000008#64, 0xFFFFFFFFFFFFFFFF#64, none⟩,
    ⟨.storageRead, 0x0000000000000009#64, 0x00000000FFFFFFFF#64, some .consumer⟩,
    ⟨.popWord, 0x000000000000000A#64, 0xFFFFFFFFFFFFFFFF#64, some .consumer⟩,
    ⟨.getState, 0x000000000000000B#64, 0xFFFFFFFFFFFFFFFF#64, none⟩ ]

/-- The command (p, w) matches the row (INDEX.md, last paragraph). -/
def TableRow.covers (row : TableRow) (p : Port) (w : CmdWord) : Bool :=
  decide (w &&& row.mask = row.pattern) && decide (row.port = none ∨ row.port = some p)

/-! ### The host's questions about single words -/

/-- The port on which a table word is presented: the row's own port, and CONTROL where any port may issue it
or the word has no row (DESIGN CHOICE, log entry 13). -/
def homePort (w : CmdWord) : Port :=
  match Opcode.ofBits (Cmd.op w) with
  | some o => o.onlyPort.getD .control
  | none => .control

/-- The 64-bit command whose lowest `nbits` bits are `w` and whose other bits are 0. -/
def tableCmd (nbits w : Nat) : CmdWord := BitVec.ofNat 64 (w % 2 ^ nbits)

/-- The instruction the decoder reads from a table word on its home port. -/
def decodeTableWord (nbits w : Nat) : Option Instr :=
  match decode (homePort (tableCmd nbits w)) (tableCmd nbits w) with
  | .ok i => some i
  | .error _ => none

end Sys2Proof
end

