-- ==== Sys2Proof/Machine/State.lean ====
section
/-! DEFINITION. The state of RB-OCC as plain data (10_state.md), the responses it gives (30_encoding.md R63), its environment's events, and the state after reset (70_reset_and_hazards.md R170, R171). -/

namespace Sys2Proof.Machine

/-- STATUS of a response (30_encoding.md R67). -/
inductive Status where
  | ok
  | full
  | nodata
  | error
deriving DecidableEq, Repr

/-- A response (R63) with the port it is given on. `ridx` and `widx` are the 32-bit fields RIDX and WIDX. -/
structure Reply where
  port   : Port
  status : Status
  value  : Word
  ridx   : Word
  widx   : Word
deriving DecidableEq, Repr

/-- The bits of the ERR register that a command may set (10_state.md R24). -/
inductive ErrBit where
  | wovr
  | rovr
  | swlive
  | srnl
  | oor
  | ill
deriving DecidableEq, Repr

/-- The reasons of the spec's fault record (10_state.md R25). They mark a run; they do not stop the machine. -/
inductive FaultReason where
  | writeOverrun
  | readOverrun
  | storageWriteLive
  | storageReadNotLive
  | storageOutOfRange
  | illegalCommand
  | unwrittenRead
deriving DecidableEq, Repr

/-- The fault record `faults`: a set of reasons, held as one flag per reason so that equal sets are equal data
(R25; log entry 4). -/
structure FaultRecord where
  writeOverrun       : Bool
  readOverrun        : Bool
  storageWriteLive   : Bool
  storageReadNotLive : Bool
  storageOutOfRange  : Bool
  illegalCommand     : Bool
  unwrittenRead      : Bool
deriving DecidableEq, Repr

/-- The empty fault record of the start of a run (R25, R171). -/
def FaultRecord.empty : FaultRecord :=
  { writeOverrun := false, readOverrun := false, storageWriteLive := false, storageReadNotLive := false,
    storageOutOfRange := false, illegalCommand := false, unwrittenRead := false }

/-- The occupancy state (10_state.md R30). -/
inductive Occupancy where
  | empty
  | partly
  | full
deriving DecidableEq, Repr

/-- The storage `stor`: the bytes that hold a value, by rising offset. An offset that is not listed holds no
value (10_state.md R22; log entry 2). -/
abbrev Memory := List Host.Cell

/-- The command outstanding on each port, at most one (20_memory.md R47). -/
structure Ports where
  producer : Option CmdWord
  consumer : Option CmdWord
  control  : Option CmdWord
deriving DecidableEq, Repr

/-- What the block's environment does next (20_memory.md R45 to R47, 70_reset_and_hazards.md R170; log entry 5). -/
inductive Event where
  /-- The agent of port `p` issues the command word `w`: it becomes outstanding. -/
  | issue (p : Port) (w : CmdWord)
  /-- The arbiter takes the command outstanding on port `p`: the block runs it. -/
  | serve (p : Port)
  /-- Hardware reset. -/
  | reset
deriving DecidableEq, Repr

/-- The state of the block and of its environment. `cfg` holds the parameters, which no step changes (log entry 1);
`ridx`, `widx`, `stor`, `err`, `faults` are the spec's tuple (10_state.md; the indices as numbers, log entry 3); `outstanding` is R47's command per port;
`events`, `replies` and `draws` are the model's own (log entries 5, 8, 9). -/
structure State where
  cfg         : Config
  ridx        : Nat
  widx        : Nat
  stor        : Memory
  err         : BitVec 32
  faults      : FaultRecord
  outstanding : Ports
  /-- What the environment does next, oldest first. -/
  events      : List Event
  /-- The responses given so far, newest first. -/
  replies     : List Reply
  /-- How many free values have been drawn (R155). -/
  draws       : Nat
deriving DecidableEq, Repr

/-- The reasons for which the model stops. The block itself never does (60_exceptions.md R156). -/
inductive Fault where
  /-- Raised by `step` when the environment issues a command on a port whose earlier command is still outstanding:
  "it receives the response before it issues the next command" (20_memory.md R47). No agent of the spec does so. Safe:
  the model stops where the spec has no step (log entry 7). -/
  | portBusy (p : Port)
deriving DecidableEq, Repr

/-- The reasons for which the model refuses an instruction. -/
inductive Refusal where
  /-- Raised by an arm of `exec` for an instruction without a meaning. Safe. No arm raises it: every instruction has its meaning. -/
  | notModelled (mnemonic : String)
deriving DecidableEq, Repr

/-- No command outstanding (R170, R171). -/
def Ports.idle : Ports := { producer := none, consumer := none, control := none }

/-- The state right after reset at the start of a run (70_reset_and_hazards.md R170, R171), of the block with the reference
parameters (log entry 1). -/
def State.reset : State :=
  { cfg := Config.reference, ridx := 0, widx := 0, stor := [], err := 0#32, faults := FaultRecord.empty,
    outstanding := Ports.idle, events := [], replies := [], draws := 0 }

end Sys2Proof.Machine
end

