-- ==== Sys2Proof/Machine/Operands.lean ====
section
/-! DEFINITION. The operand forms: index arithmetic (00_scope.md R15), the use of ARG as a count or an offset (30_encoding.md R62), and the byte image of a word (20_memory.md R42). -/

namespace Sys2Proof.Machine

/-- `adv(i, n) = (i + n) mod CAP` (R15). -/
def adv (c : Config) (i n : Nat) : Nat := (i + n) % c.cap

/-- ARG as the byte count `n`, whole and unsigned (R62). -/
def countOf (arg : Word) : Nat := arg.toNat

/-- ARG as a storage offset, compared with `CAP` without reduction (R62). -/
def offsetOf (arg : Word) : Nat := arg.toNat

/-- `bytes_of(v)`: the little-endian image of a word (R14, R42). -/
def bytesOf (v : Word) : List Byte :=
  [v.extractLsb' 0 8, v.extractLsb' 8 8, v.extractLsb' 16 8, v.extractLsb' 24 8]

/-- `word_of([b0, b1, b2, b3]) = {b3, b2, b1, b0}` (R42). -/
def wordOf (b0 b1 b2 b3 : Byte) : Word := b3 ++ (b2 ++ (b1 ++ b0))

/-- `word_of` of four bytes read from storage; none when one of them holds no value (R14). -/
def wordOfRead : List (Option Byte) → Option Word
  | [some b0, some b1, some b2, some b3] => some (wordOf b0 b1 b2 b3)
  | _ => none

end Sys2Proof.Machine
end

