-- ==== Sys2Proof/Machine/Flags.lean ====
section
/-! DEFINITION. The occupancy accounting (10_state.md R26 to R30), the level outputs (R33), the bit positions of ERR (R24), and the packed forms of the response (30_encoding.md R63) and of GET_STATE's VALUE (43_state_and_control.md R130). -/

namespace Sys2Proof.Machine

/-- `(w - r) mod CAP`, on unbounded integers and then reduced (00_scope.md R12). -/
def modDiff (c : Config) (w r : Nat) : Nat := (((w : Int) - (r : Int)) % (c.cap : Int)).toNat

/-- `used(r, w) = (w - r) mod CAP` (R26). -/
def used (c : Config) (r w : Nat) : Nat := modDiff c w r

/-- Offset `a` is live: `(a - r) mod CAP < used(r, w)` (R26). -/
def live (c : Config) (r w a : Nat) : Bool := decide (modDiff c a r < used c r w)

/-- `avail(r, w) = EFF_CAP - used(r, w)` (R27). -/
def avail (c : Config) (r w : Nat) : Nat := c.effCap - used c r w

/-- `contig_avail(r, w)`: bytes writable at `w` without wrapping (R28). -/
def contigAvail (c : Config) (r w : Nat) : Nat :=
  if r ≤ w then
    if r = 0 then c.effCap - w else c.cap - w
  else r - w - 1

/-- `contig_used(r, w)`: live bytes readable at `r` without wrapping (R29). -/
def contigUsed (c : Config) (r w : Nat) : Nat := if r ≤ w then w - r else c.cap - r

/-- `occ(r, w)` (R30). -/
def occ (c : Config) (r w : Nat) : Occupancy :=
  if r = w then .empty else if avail c r w < 4 then .full else .partly

/-- The code numbers of the occupancy states (R30). -/
def Occupancy.code : Occupancy → BitVec 2
  | .empty => 0#2
  | .partly => 1#2
  | .full => 2#2

/-- The level output `EMPTY_O` (R33; log entry 15). -/
def State.emptyO (s : State) : Bool := decide (occ s.cfg s.ridx s.widx = .empty)

/-- The level output `FULL_O` (R33; log entry 15). -/
def State.fullO (s : State) : Bool := decide (occ s.cfg s.ridx s.widx = .full)

/-- The position of a bit of ERR (R24). -/
def ErrBit.position : ErrBit → Nat
  | .wovr => 0
  | .rovr => 1
  | .swlive => 2
  | .srnl => 3
  | .oor => 4
  | .ill => 5

/-- ERR with one bit set and the others as they are: `set_err` (R24). -/
def errWith (e : BitVec 32) (b : ErrBit) : BitVec 32 := e ||| (1#32 <<< b.position)

/-- Add a reason to the fault record: `raise Fault(reason)` (R14, 60_exceptions.md R156). -/
def FaultRecord.add (f : FaultRecord) : FaultReason → FaultRecord
  | .writeOverrun => { f with writeOverrun := true }
  | .readOverrun => { f with readOverrun := true }
  | .storageWriteLive => { f with storageWriteLive := true }
  | .storageReadNotLive => { f with storageReadNotLive := true }
  | .storageOutOfRange => { f with storageOutOfRange := true }
  | .illegalCommand => { f with illegalCommand := true }
  | .unwrittenRead => { f with unwrittenRead := true }

/-- The reason is in the fault record. -/
def FaultRecord.has (f : FaultRecord) : FaultReason → Bool
  | .writeOverrun => f.writeOverrun
  | .readOverrun => f.readOverrun
  | .storageWriteLive => f.storageWriteLive
  | .storageReadNotLive => f.storageReadNotLive
  | .storageOutOfRange => f.storageOutOfRange
  | .illegalCommand => f.illegalCommand
  | .unwrittenRead => f.unwrittenRead

/-- The codes of STATUS (R67). -/
def Status.code : Status → BitVec 2
  | .ok => 0#2
  | .full => 1#2
  | .nodata => 2#2
  | .error => 3#2

/-- `RESP = {WIDX, RIDX, VALUE, 30'b0, STATUS}` (R63). -/
def Reply.pack (r : Reply) : BitVec 128 :=
  r.widx ++ (r.ridx ++ (r.value ++ (0#30 ++ r.status.code)))

/-- GET_STATE's VALUE `{7'b0, HAS_POP_WORD, LOG2_CAP[7:0], 2'b0, err[5:0], 6'b0, occ[1:0]}` (R130). -/
def stateValue (c : Config) (e : BitVec 32) (o : Occupancy) : Word :=
  0#7 ++ (BitVec.ofBool c.hasPopWord ++ (BitVec.ofNat 8 c.log2Cap ++ (0#2 ++ (e.extractLsb' 0 6 ++ (0#6 ++ o.code)))))

end Sys2Proof.Machine
end

