-- ==== Sys2Proof/Machine/Ops.lean ====
section
/-! DEFINITION. The named operations over storage and registers: MemRead, MemWrite, set_err, raise, respond (00_scope.md R14), reporting an error (60_exceptions.md R151), clearing the block and reset (70_reset_and_hazards.md R170), and the ports (20_memory.md R47). -/

namespace Sys2Proof.Machine

/-! ### Storage -/

/-- The byte at an offset; none when it holds no value (10_state.md R22). -/
def Memory.read : Memory → Nat → Option Byte
  | [], _ => none
  | (a, b) :: m, x => if x = a then some b else Memory.read m x

/-- Write one byte, keeping the offsets strictly rising. -/
def Memory.write : Memory → Nat → Byte → Memory
  | [], x, v => [(x, v)]
  | (a, b) :: m, x, v =>
    if x < a then (x, v) :: (a, b) :: m
    else if x = a then (x, v) :: m
    else (a, b) :: Memory.write m x v

/-- The canonical form: offsets strictly rising. (No value is what an unlisted offset holds, so every listed byte differs
from it.) -/
abbrev Memory.wf (m : Memory) : Prop := List.Pairwise (fun x y : Host.Cell => x.1 < y.1) m

/-- Every listed offset lies in `[0, cap)` (R22). -/
abbrev Memory.within (cap : Nat) (m : Memory) : Prop := ∀ x ∈ m, x.1 < cap

/-- `MemRead(a, n)`: the bytes at `(a + k) mod CAP` for `k < n`, in order (R14). -/
def memRead (c : Config) (m : Memory) (a n : Nat) : List (Option Byte) :=
  (List.range n).map (fun k => m.read (adv c a k))

/-- `MemWrite(a, n, bytes)`: byte `k` goes to `(a + k) mod CAP` (R14). -/
def memWrite (c : Config) (m : Memory) (a : Nat) : List Byte → Memory
  | [] => m
  | b :: bs => memWrite c (m.write (adv c a 0) b) (a + 1) bs

/-! ### Registers -/

/-- The byte at an offset of the state's storage. -/
def State.byteAt (s : State) (a : Nat) : Option Byte := s.stor.read a

/-- `ridx <- r`. -/
def State.setRidx (s : State) (r : Nat) : State := { s with ridx := r }

/-- `widx <- w`. -/
def State.setWidx (s : State) (w : Nat) : State := { s with widx := w }

/-- Replace the storage. -/
def State.setStor (s : State) (m : Memory) : State := { s with stor := m }

/-- `set_err(bit)` (R24). -/
def State.setErr (s : State) (b : ErrBit) : State := { s with err := errWith s.err b }

/-- `raise Fault(reason)` (R14, R156). -/
def State.raise (s : State) (f : FaultReason) : State := { s with faults := s.faults.add f }

/-- Count one free value as drawn (R155; log entry 9). -/
def State.draw (s : State) : State := { s with draws := s.draws + 1 }

/-- Give a response on port `p`, with RIDX and WIDX as the state holds them now (R63). -/
def State.reply (s : State) (p : Port) (st : Status) (v : Word) : State :=
  { s with replies :=
      { port := p, status := st, value := v, ridx := BitVec.ofNat 32 s.ridx, widx := BitVec.ofNat 32 s.widx } :: s.replies }

/-! ### Ending a command -/

/-- `respond(status, value)` ends the command (R14, R63). -/
def respond (p : Port) (st : Status) (v : Word) (s : State) : Host.Outcome State Fault Refusal :=
  .next (s.reply p st v)

/-- Report a condition of R151's ERROR rows: the `err` bit, the fault reason, STATUS ERROR and VALUE 0 (R151, R152).
This is the block's one way to raise an error: it has no traps (R150), so control goes nowhere. -/
def reportError (p : Port) (b : ErrBit) (f : FaultReason) (s : State) : Host.Outcome State Fault Refusal :=
  respond p .error 0#32 ((s.setErr b).raise f)

/-- An illegal command (30_encoding.md R66). -/
def illegalCommand (p : Port) (s : State) : Host.Outcome State Fault Refusal :=
  reportError p .ill .illegalCommand s

/-- A read that met a byte holding no value: UNWRITTEN_READ is recorded and a free value is drawn (R155). -/
def State.unwrittenRead (s : State) : State := (s.raise .unwrittenRead).draw

/-! ### Index updates -/

/-- Advance the read index by `n`; "if this advance makes `read_index == write_index`, both indices are reset to 0"
(42_direct_access.md R110, 41_read.md R90). -/
def State.consume (s : State) (n : Nat) : State :=
  if adv s.cfg s.ridx n = s.widx then (s.setRidx 0).setWidx 0 else s.setRidx (adv s.cfg s.ridx n)

/-- Advance the write index by `n` (R102, R80). -/
def State.produce (s : State) (n : Nat) : State := s.setWidx (adv s.cfg s.widx n)

/-! ### Clearing and reset -/

/-- Both indices 0, `err` 0, every storage byte without a value (43_state_and_control.md R131). -/
def State.clear (s : State) : State := { s with ridx := 0, widx := 0, err := 0#32, stor := [] }

/-- Hardware reset: the effect of INIT, and the outstanding commands are lost without a response; `faults` is kept
(70_reset_and_hazards.md R170; log entry 14). -/
def State.hardwareReset (s : State) : State := { s.clear with outstanding := Ports.idle }

/-! ### Ports and events -/

/-- The command outstanding on a port. -/
def Ports.get (q : Ports) : Port → Option CmdWord
  | .producer => q.producer
  | .consumer => q.consumer
  | .control => q.control

/-- Set what is outstanding on a port. -/
def Ports.set (q : Ports) (p : Port) (w : Option CmdWord) : Ports :=
  match p with
  | .producer => { q with producer := w }
  | .consumer => { q with consumer := w }
  | .control => { q with control := w }

/-- Set what is outstanding on a port of the state. -/
def State.setOutstanding (s : State) (p : Port) (w : Option CmdWord) : State :=
  { s with outstanding := s.outstanding.set p w }

/-- Set the events to come. -/
def State.setEvents (s : State) (es : List Event) : State := { s with events := es }

/-- An agent issues a command. A port has at most one command outstanding (R47): on a busy port no agent issues one, and the
model stops (log entry 7). -/
def issueCommand (p : Port) (w : CmdWord) (s : State) : Host.Outcome State Fault Refusal :=
  match s.outstanding.get p with
  | none => .next (s.setOutstanding p (some w))
  | some _ => .fault (.portBusy p)

/-- The command word is outstanding on the port and the arbiter takes it next. -/
def State.present (s : State) (p : Port) (w : CmdWord) : State :=
  (s.setOutstanding p (some w)).setEvents (.serve p :: s.events)

end Sys2Proof.Machine
end

