-- ==== Sys2Proof/Machine/Control.lean ====
section
/-! DEFINITION. GET_STATE (43_state_and_control.md R130) and INIT (R131). -/

namespace Sys2Proof.Machine

/-- GET_STATE (R130): occupancy, `err[5:0]` and the parameters; reading clears nothing. -/
def execGetState (p : Port) (s : State) : Host.Outcome State Fault Refusal :=
  respond p .ok (stateValue s.cfg s.err (occ s.cfg s.ridx s.widx)) s

/-- INIT (R131): both indices 0, `err` 0, no storage byte holds a value; `faults` is not changed. -/
def execInit (s : State) : Host.Outcome State Fault Refusal :=
  respond .control .ok 0#32 s.clear

end Sys2Proof.Machine
end

