-- ==== Sys2Proof/Machine/DirectAccess.lean ====
section
/-! DEFINITION. The direct-access commit interface: REGISTER_WRITES (42_direct_access.md R102), STORAGE_WRITE (R104) and REGISTER_READS (R110). -/

namespace Sys2Proof.Machine

/-- REGISTER_WRITES (R102): `widx` advances by `n` whatever `n` is; a count above `contig_avail` of the state before the step is
reported as WOVR. -/
def execRegisterWrites (n : Word) (s : State) : Host.Outcome State Fault Refusal :=
  if contigAvail s.cfg s.ridx s.widx < countOf n then
    reportError .producer .wovr .writeOverrun (s.produce (countOf n))
  else
    respond .producer .ok 0#32 (s.produce (countOf n))

/-- STORAGE_WRITE (R104): range first, then liveness; a free byte, the reserved slot included, is written. -/
def execStorageWrite (a : Word) (b : Byte) (s : State) : Host.Outcome State Fault Refusal :=
  if s.cfg.cap ≤ offsetOf a then reportError .producer .oor .storageOutOfRange s
  else if live s.cfg s.ridx s.widx (offsetOf a) = true then reportError .producer .swlive .storageWriteLive s
  else respond .producer .ok 0#32 (s.setStor (s.stor.write (offsetOf a) b))

/-- REGISTER_READS (R110): `ridx` advances by `n` whatever `n` is, both indices being reset when it lands on `widx`; a count above
`contig_used` of the state before the step is reported as ROVR. -/
def execRegisterReads (n : Word) (s : State) : Host.Outcome State Fault Refusal :=
  if contigUsed s.cfg s.ridx s.widx < countOf n then
    reportError .consumer .rovr .readOverrun (s.consume (countOf n))
  else
    respond .consumer .ok 0#32 (s.consume (countOf n))

end Sys2Proof.Machine
end

