-- ==== Sys2Proof/Machine/Push.lean ====
section
/-! DEFINITION. PUSH_WORD (40_push.md R80 to R84). -/

namespace Sys2Proof.Machine

/-- PUSH_WORD (R80): on an empty buffer reset both indices and write at offset 0; with fewer than 4 free bytes respond FULL and
change nothing; else write at `widx`, split across the end of storage where needed (R81), and advance `widx` by 4. -/
def execPushWord (v : Word) (s : State) : Host.Outcome State Fault Refusal :=
  if s.ridx = s.widx then
    respond .producer .ok 0#32 (((s.setStor (memWrite s.cfg s.stor 0 (bytesOf v))).setRidx 0).setWidx 4)
  else if avail s.cfg s.ridx s.widx < 4 then
    respond .producer .full 0#32 s
  else
    respond .producer .ok 0#32 ((s.setStor (memWrite s.cfg s.stor s.widx (bytesOf v))).produce 4)

end Sys2Proof.Machine
end

