-- ==== Sys2Proof/Machine/Queries.lean ====
section
/-! DEFINITION. The four space queries, legal on every port: CONTIG_SPACE_AVAILABLE (42_direct_access.md R100), CONTIG_SPACE_USED (R108), SPACE_AVAILABLE (R114) and SPACE_USED (R116). -/

namespace Sys2Proof.Machine

/-- A query responds OK with a byte count and changes no state. -/
def answerCount (p : Port) (k : Nat) (s : State) : Host.Outcome State Fault Refusal :=
  respond p .ok (BitVec.ofNat 32 k) s

/-- CONTIG_SPACE_AVAILABLE (R100). -/
def execContigSpaceAvailable (p : Port) (s : State) : Host.Outcome State Fault Refusal :=
  answerCount p (contigAvail s.cfg s.ridx s.widx) s

/-- CONTIG_SPACE_USED (R108). -/
def execContigSpaceUsed (p : Port) (s : State) : Host.Outcome State Fault Refusal :=
  answerCount p (contigUsed s.cfg s.ridx s.widx) s

/-- SPACE_AVAILABLE (R114). -/
def execSpaceAvailable (p : Port) (s : State) : Host.Outcome State Fault Refusal :=
  answerCount p (avail s.cfg s.ridx s.widx) s

/-- SPACE_USED (R116). -/
def execSpaceUsed (p : Port) (s : State) : Host.Outcome State Fault Refusal :=
  answerCount p (used s.cfg s.ridx s.widx) s

end Sys2Proof.Machine
end

