-- ==== Sys2Proof/Machine/Read.lean ====
section
/-! DEFINITION. POP_WORD (41_read.md R90) and STORAGE_READ (R92). -/

namespace Sys2Proof.Machine

/-- POP_WORD (R90). In a block without it the command is illegal (30_encoding.md R66, condition 2). With fewer than 4 live bytes
it responds NODATA. Else the word at `ridx` is the VALUE; a byte without a value makes the whole VALUE a free draw and
records UNWRITTEN_READ, and "updates the indices as above" all the same (R90, R155; log entry 11). -/
def execPopWord (s : State) : Host.Outcome State Fault Refusal :=
  if s.cfg.hasPopWord = false then illegalCommand .consumer s
  else if used s.cfg s.ridx s.widx < 4 then respond .consumer .nodata 0#32 s
  else
    match wordOfRead (memRead s.cfg s.stor s.ridx 4) with
    | some v => respond .consumer .ok v (s.consume 4)
    | none => respond .consumer .ok (Config.freeWord s.draws) (s.unwrittenRead.consume 4)

/-- STORAGE_READ (R92): range first, then liveness (60_exceptions.md R153). A live byte without a value responds OK
with a VALUE that is a free draw, all 32 bits of it, and records UNWRITTEN_READ (R92, R155; log entry 10). -/
def execStorageRead (a : Word) (s : State) : Host.Outcome State Fault Refusal :=
  if s.cfg.cap ≤ offsetOf a then reportError .consumer .oor .storageOutOfRange s
  else if live s.cfg s.ridx s.widx (offsetOf a) = false then reportError .consumer .srnl .storageReadNotLive s
  else
    match s.byteAt (offsetOf a) with
    | some b => respond .consumer .ok (b.setWidth 32) s
    | none => respond .consumer .ok (Config.freeWord s.draws) s.unwrittenRead

end Sys2Proof.Machine
end

