-- ==== Sys2Proof/Machine/Dispatch.lean ====
section
/-! DEFINITION. One arm per instruction, in the order of the opcode map (30_encoding.md R64). -/

namespace Sys2Proof.Machine

def exec (i : Instr) (s : State) : Host.Outcome State Fault Refusal :=
  match i with
  | .init => Sys2Proof.Machine.execInit s
  | .pushWord v => Sys2Proof.Machine.execPushWord v s
  | .registerWrites n => Sys2Proof.Machine.execRegisterWrites n s
  | .contigSpaceAvailable p => Sys2Proof.Machine.execContigSpaceAvailable p s
  | .spaceAvailable p => Sys2Proof.Machine.execSpaceAvailable p s
  | .storageWrite a b => Sys2Proof.Machine.execStorageWrite a b s
  | .registerReads n => Sys2Proof.Machine.execRegisterReads n s
  | .contigSpaceUsed p => Sys2Proof.Machine.execContigSpaceUsed p s
  | .spaceUsed p => Sys2Proof.Machine.execSpaceUsed p s
  | .storageRead a => Sys2Proof.Machine.execStorageRead a s
  | .popWord => Sys2Proof.Machine.execPopWord s
  | .getState p => Sys2Proof.Machine.execGetState p s

end Sys2Proof.Machine
end

