-- ==== Sys2Proof/Machine/Serve.lean ====
section
/-! DEFINITION. Running one command: decoding it, reporting it when it is illegal, executing it when it is legal (30_encoding.md R66, R68), and taking it from its port (20_memory.md R46, R47). -/

namespace Sys2Proof.Machine

/-- Run the command (p, w): "Legality is decided before any other part of a command's rule" (R68). -/
def runCommand (p : Port) (w : CmdWord) (s : State) : Host.Outcome State Fault Refusal :=
  match decode p w with
  | .error _ => illegalCommand p s
  | .ok i => exec i s

/-- The arbiter takes the command outstanding on port `p`; the port is free again when the response is given (R47). With no
command outstanding nothing happens (log entry 6). -/
def serveCommand (p : Port) (s : State) : Host.Outcome State Fault Refusal :=
  match s.outstanding.get p with
  | none => .next s
  | some w => runCommand p w (s.setOutstanding p none)

end Sys2Proof.Machine
end

