-- ==== Sys2Proof/Machine/Step.lean ====
section
/-! DEFINITION. One step: the next event of the environment. A command is one atomic step (20_memory.md R46). -/

namespace Sys2Proof.Machine

/-- One step takes the oldest event (log entry 5): a command is issued on a port, the arbiter serves a port, or reset comes.
With no event left nothing happens (log entry 6). -/
def step (s : State) : Host.Outcome State Fault Refusal :=
  match s.events with
  | [] => .next s
  | .issue p w :: es => issueCommand p w (s.setEvents es)
  | .serve p :: es => serveCommand p (s.setEvents es)
  | .reset :: es => .next (s.setEvents es).hardwareReset

/-- The state with a table word outstanding on its home port and served next (log entry 13). -/
def State.withFetchWord (s : State) (nbits w : Nat) : State :=
  s.present (homePort (tableCmd nbits w)) (tableCmd nbits w)

end Sys2Proof.Machine
end

