-- ==== Sys2Proof/Machine/Assembler.lean ====
section
/-! DEFINITION. The assembler syntax for command sequences (30_encoding.md R69) and its one pseudo-instruction NOP (R70): a line of text to the command (port, CMD) it stands for (log entry 18 for what R69 leaves open). -/

namespace Sys2Proof.Machine

/-- Why the assembler refuses a line. -/
inductive AsmError where
  | badLine
  | badPortTag
  | badMnemonic
  | badNumber
  | wrongOperands
  | operandTooWide
deriving DecidableEq, Repr

/-- The mnemonic of a row (R64). -/
def asmMnemonic : Opcode → String
  | .init => "INIT"
  | .pushWord => "PUSH_WORD"
  | .registerWrites => "REGISTER_WRITES"
  | .contigSpaceAvailable => "CONTIG_SPACE_AVAILABLE"
  | .spaceAvailable => "SPACE_AVAILABLE"
  | .storageWrite => "STORAGE_WRITE"
  | .registerReads => "REGISTER_READS"
  | .contigSpaceUsed => "CONTIG_SPACE_USED"
  | .spaceUsed => "SPACE_USED"
  | .storageRead => "STORAGE_READ"
  | .popWord => "POP_WORD"
  | .getState => "GET_STATE"

/-- Every row, in the order of R64. -/
def asmRows : List Opcode :=
  [.init, .pushWord, .registerWrites, .contigSpaceAvailable, .spaceAvailable, .storageWrite, .registerReads,
    .contigSpaceUsed, .spaceUsed, .storageRead, .popWord, .getState]

/-- The row a mnemonic names; "`NOP` on any port expands to `GET_STATE` on that port" (R70). -/
def asmOpcode (t : List Char) : Option Opcode :=
  if t = "NOP".toList then some .getState else asmRows.find? (fun o => decide (t = (asmMnemonic o).toList))

/-- The port a tag names (R69). -/
def asmPort (t : List Char) : Option Port :=
  if t = "[P]".toList then some .producer
  else if t = "[C]".toList then some .consumer
  else if t = "[K]".toList then some .control
  else none

/-- The value of a digit, in either case. -/
def asmDigit (c : Char) : Option Nat :=
  if '0' ≤ c ∧ c ≤ '9' then some (c.toNat - '0'.toNat)
  else if 'a' ≤ c ∧ c ≤ 'f' then some (c.toNat - 'a'.toNat + 10)
  else if 'A' ≤ c ∧ c ≤ 'F' then some (c.toNat - 'A'.toNat + 10)
  else none

/-- The number that digits continue, in a base. -/
def asmDigits (base : Nat) : List Char → Nat → Option Nat
  | [], acc => some acc
  | c :: cs, acc =>
    match asmDigit c with
    | some d => if d < base then asmDigits base cs (acc * base + d) else none
    | none => none

/-- A decimal or `0x`-prefixed hexadecimal unsigned number (R69). -/
def asmNumber (t : List Char) : Option Nat :=
  match t with
  | [] => none
  | ['0', 'x'] => none
  | '0' :: 'x' :: ds => asmDigits 16 ds 0
  | ds => asmDigits 10 ds 0

/-- A token that is not empty. -/
def asmFlush (cur : List Char) : List (List Char) := if cur = [] then [] else [cur]

/-- Cut a line at blanks and commas, a comma being a token of its own; a `;` starts a comment to the end of the line (R69). -/
def asmTokens (cur : List Char) : List Char → List (List Char)
  | [] => asmFlush cur
  | c :: cs =>
    if c = ';' then asmFlush cur
    else if c = ' ' ∨ c = '\t' then asmFlush cur ++ asmTokens [] cs
    else if c = ',' then asmFlush cur ++ [','] :: asmTokens [] cs
    else asmTokens (cur ++ [c]) cs

/-- The command word of a row and its operands. "An operand that does not fit its field (ARG 32 bits, BDATA 8 bits) is refused by
the assembler, not truncated" (R69). -/
def asmWord (o : Opcode) (operands : List Nat) : Except AsmError CmdWord :=
  match o.usesArg, o.usesBdata, operands with
  | false, false, [] => .ok (Cmd.assemble o.bits 0#8 0#32)
  | true, false, [a] =>
    if a < 2 ^ 32 then .ok (Cmd.assemble o.bits 0#8 (BitVec.ofNat 32 a)) else .error .operandTooWide
  | true, true, [a, b] =>
    if a < 2 ^ 32 ∧ b < 2 ^ 8 then .ok (Cmd.assemble o.bits (BitVec.ofNat 8 b) (BitVec.ofNat 32 a))
    else .error .operandTooWide
  | _, _, _ => .error .wrongOperands

/-- The operands of a line: none, one, or two with a comma between (R69). -/
def asmOperands (ts : List (List Char)) : Except AsmError (List Nat) :=
  match ts with
  | [] => .ok []
  | [x] =>
    match asmNumber x with
    | some a => .ok [a]
    | none => .error .badNumber
  | [x, comma, y] =>
    if comma = [','] then
      match asmNumber x, asmNumber y with
      | some a, some b => .ok [a, b]
      | _, _ => .error .badNumber
    else .error .badLine
  | _ => .error .badLine

/-- Assemble one line `<port-tag> <MNEMONIC> [<operand>[, <operand>]]` (R69); a line without a command gives none. The port is
not checked here: a command on a port that may not issue it is illegal at the block (R66). -/
def assembleLine (line : List Char) : Except AsmError (Option (Port × CmdWord)) :=
  match asmTokens [] line with
  | [] => .ok none
  | [_] => .error .badLine
  | tag :: mn :: rest =>
    match asmPort tag with
    | none => .error .badPortTag
    | some p =>
      match asmOpcode mn with
      | none => .error .badMnemonic
      | some o =>
        match asmOperands rest with
        | .error e => .error e
        | .ok ops =>
          match asmWord o ops with
          | .error e => .error e
          | .ok w => .ok (some (p, w))

end Sys2Proof.Machine
end

