-- ==== Sys2Proof/Safety.lean ====
section
/-! DEFINITION. The terms claims are stated in: the invariant every step keeps (43_state_and_control.md R134), a run without a recorded fault (60_exceptions.md R156), and the live bytes in order (10_state.md R26). -/

namespace Sys2Proof.Machine

/-- The invariant of the block: both indices lie in `[0, CAP)` (R134), storage is canonical and within `[0, CAP)` (R22), and the
reserved bits 31:6 of ERR are 0 (R24). -/
abbrev State.Inv (s : State) : Prop :=
  s.ridx < s.cfg.cap ∧ s.widx < s.cfg.cap ∧ s.stor.wf ∧ s.stor.within s.cfg.cap ∧ s.err.extractLsb' 6 26 = 0#26

/-- No fault is recorded: "A state whose `faults` is not empty is never a successful final state" (R156). -/
abbrev State.faultFree (s : State) : Prop := s.faults = FaultRecord.empty

/-- The number of live bytes of the state (R26). -/
def State.usedBytes (s : State) : Nat := used s.cfg s.ridx s.widx

/-- The offset `a` is live in the state (R26). -/
def State.isLive (s : State) (a : Nat) : Bool := live s.cfg s.ridx s.widx a

/-- The live bytes read from `ridx` in wrapped order (R134). A byte without a value stands as none. -/
def State.contents (s : State) : List (Option Byte) := memRead s.cfg s.stor s.ridx s.usedBytes

/-- Every live byte holds a value. -/
def State.liveBytesWritten (s : State) : Prop :=
  ∀ a, a < s.cfg.cap → s.isLive a = true → s.byteAt a ≠ none

/-- A command leaves the parameters, the outstanding commands and the events to come as they are. -/
def State.sameEnvironment (s t : State) : Prop :=
  t.cfg = s.cfg ∧ t.outstanding = s.outstanding ∧ t.events = s.events

/-- Every storage byte reads as before. -/
def State.sameStorage (s t : State) : Prop := ∀ a, t.byteAt a = s.byteAt a

/-- From `s` to `t` exactly one response was given: on port `p`, with STATUS `st` and VALUE `v`, its RIDX and WIDX being the
indices of `t` (30_encoding.md R63). -/
def State.answers (s t : State) (p : Port) (st : Status) (v : Word) : Prop :=
  t.replies = ⟨p, st, v, BitVec.ofNat 32 t.ridx, BitVec.ofNat 32 t.widx⟩ :: s.replies

/-- The state `s` in which one more response has been given and nothing else has changed. -/
def State.plusReply (s : State) (p : Port) (st : Status) (v : Word) : State :=
  { s with replies := ⟨p, st, v, BitVec.ofNat 32 s.ridx, BitVec.ofNat 32 s.widx⟩ :: s.replies }

/-- A command is illegal in a block with parameters `c` (30_encoding.md R66, conditions 1 to 6, on the bits of the word). -/
def illegalByR66 (c : Config) (p : Port) (w : CmdWord) : Prop :=
  (w.extractLsb' 0 4).toNat ∈ [0xC, 0xD, 0xE, 0xF] ∨
  ((w.extractLsb' 0 4).toNat = 0xA ∧ c.hasPopWord = false) ∨
  (w.extractLsb' 4 4 ≠ 0#4 ∨ w.extractLsb' 16 16 ≠ 0#16) ∨
  (w.extractLsb' 8 8 ≠ 0#8 ∧ (w.extractLsb' 0 4).toNat ≠ 0x5) ∨
  (w.extractLsb' 32 32 ≠ 0#32 ∧ (w.extractLsb' 0 4).toNat ∉ [0x1, 0x2, 0x5, 0x6, 0x9]) ∨
  ((w.extractLsb' 0 4).toNat ∈ [0x1, 0x2, 0x5] ∧ p ≠ .producer) ∨
  ((w.extractLsb' 0 4).toNat ∈ [0x6, 0x9, 0xA] ∧ p ≠ .consumer) ∨
  ((w.extractLsb' 0 4).toNat = 0x0 ∧ p ≠ .control)

/-- Two states agree on everything an agent may observe: all but the values of free storage bytes (R34). -/
def State.sameButFreeBytes (s t : State) : Prop :=
  s.cfg = t.cfg ∧ s.ridx = t.ridx ∧ s.widx = t.widx ∧ s.err = t.err ∧ s.faults = t.faults ∧
  s.outstanding = t.outstanding ∧ s.events = t.events ∧ s.replies = t.replies ∧ s.draws = t.draws ∧
  ∀ a, a < s.cfg.cap → s.isLive a = true → s.byteAt a = t.byteAt a

end Sys2Proof.Machine
end

