-- ==== Sys2Proof/Certificates/Slice0/Obligations.lean ====
section
/-! DEFINITION. The statements for the provers, from the numbered rules of spec/. In all of them `cap` is `s.cfg.cap = 2^LOG2_CAP` of whatever parameters the state has. -/

open Sys2Proof Sys2Proof.Machine

/-! ## Encoding -/

/-- R61, R64: decoding the encoding of any instruction gives it back, with every operand at every value. -/
def Obligations.DecodeOfEncode : Prop :=
  ∀ i : Instr, decode (encode i).1 (encode i).2 = .ok i

/-- R66: "Every encoding is either one of the legal rows of rule R64 or illegal": a decoded command has no other spelling. -/
def Obligations.EncodeOfDecode : Prop :=
  ∀ (p : Port) (w : CmdWord) (i : Instr), decode p w = .ok i → encode i = (p, w)

/-- R66: the decoder accepts exactly the commands that are legal in a block with POP_WORD. -/
def Obligations.DecoderAcceptsExactlyLegalCommands : Prop :=
  ∀ (c : Config) (p : Port) (w : CmdWord), c.hasPopWord = true →
    ((∃ i, decode p w = .ok i) ↔ ¬ illegalByR66 c p w)

/-- INDEX.md: a command matches a row of the opcode table exactly when it decodes to an instruction of that row. -/
def Obligations.DecoderAgreesWithOpcodeTable : Prop :=
  ∀ (p : Port) (w : CmdWord) (row : TableRow), row ∈ opcodeTable →
    (row.covers p w = true ↔ ∃ i, decode p w = .ok i ∧ i.opcode = row.opcode)

/-- Words of 95_test_vectors.md, one of every family, decode to what they stand for, and E3 and E8 are refused. -/
def Obligations.SpecWordsDecode : Prop :=
  decode .producer 0x1122334400000001#64 = .ok (.pushWord 0x11223344#32) ∧
  decode .consumer 0x000000000000000A#64 = .ok .popWord ∧
  decode .producer 0x0000000C0000AB05#64 = .ok (.storageWrite 12#32 0xAB#8) ∧
  decode .consumer 0x0000000700000006#64 = .ok (.registerReads 7#32) ∧
  decode .consumer 0x0000000000000008#64 = .ok (.spaceUsed .consumer) ∧
  decode .control 0x000000000000000B#64 = .ok (.getState .control) ∧
  decode .producer 0x0000000000000000#64 = .error .wrongPort ∧
  decode .producer 0x0000000000000006#64 = .error .wrongPort

/-- R69: the word the assembler makes from a mnemonic and its operands is, on a port that may issue it, the command of that
row with those operands. -/
def Obligations.AssembledWordsDecode : Prop :=
  ∀ (o : Opcode) (operands : List Nat) (p : Port) (w : CmdWord),
    asmWord o operands = .ok w → o.permits p = true →
    ∃ i, decode p w = .ok i ∧ i.opcode = o ∧
      operands = (if o.usesArg then [i.arg.toNat] else []) ++ (if o.usesBdata then [i.bdata.toNat] else [])

/-- R69: an operand that does not fit its field is refused, not truncated; a fitting one is accepted. -/
def Obligations.AssemblerRefusesWideOperands : Prop :=
  (∀ (o : Opcode) (n : Nat), o.usesArg = true → o.usesBdata = false →
    ((∃ w, asmWord o [n] = .ok w) ↔ n < 2 ^ 32)) ∧
  (∀ a b : Nat, (∃ w, asmWord .storageWrite [a, b] = .ok w) ↔ a < 2 ^ 32 ∧ b < 2 ^ 8)

/-! ## Steps and events -/

/-- R46, R68: serving a port whose outstanding word decodes to an instruction runs that instruction, with the port free again
and the event used up; nothing else happens around it. -/
def Obligations.StepRunsDecodedCommand : Prop :=
  ∀ (s : State) (p : Port) (w : CmdWord) (i : Instr) (es : List Event),
    s.events = .serve p :: es → s.outstanding.get p = some w → decode p w = .ok i →
    step s = exec i { s with events := es, outstanding := s.outstanding.set p none }

/-- R66, R68: legality decides a command's step before anything else. An illegal command, by any of the six conditions, sets ILL,
records ILLEGAL_COMMAND, responds ERROR with VALUE 0, and changes nothing else. Every other command is the encoding of an
instruction the block has, and runs it. -/
def Obligations.LegalityDecidesStep : Prop :=
  ∀ (s : State) (p : Port) (w : CmdWord) (es : List Event),
    s.events = .serve p :: es → s.outstanding.get p = some w →
    (illegalByR66 s.cfg p w → step s = .next
      { s with
        err := s.err ||| 0x20#32
        faults := { s.faults with illegalCommand := true }
        events := es
        outstanding := s.outstanding.set p none
        replies := ⟨p, .error, 0#32, BitVec.ofNat 32 s.ridx, BitVec.ofNat 32 s.widx⟩ :: s.replies }) ∧
    (¬ illegalByR66 s.cfg p w → ∃ i : Instr, i.wf s.cfg = true ∧ encode i = (p, w) ∧
      step s = exec i { s with events := es, outstanding := s.outstanding.set p none })

/-- R47: issuing a command on a port with none outstanding makes it outstanding there and does nothing else; on a port with one
outstanding the model stops (the model's choice, log entry 7). -/
def Obligations.IssueMakesCommandOutstanding : Prop :=
  ∀ (s : State) (p : Port) (w : CmdWord) (es : List Event), s.events = .issue p w :: es →
    (s.outstanding.get p = none → ∃ t, step s = .next t ∧ t.outstanding.get p = some w ∧ t.events = es ∧
      (∀ q, q ≠ p → t.outstanding.get q = s.outstanding.get q) ∧
      { t with outstanding := s.outstanding, events := s.events } = s) ∧
    (s.outstanding.get p ≠ none → step s = .fault (.portBusy p))

/-- R156: "every legal or illegal command has exactly one step": serving a port never stops the machine. (Where nothing is
outstanding there nothing happens: the model's choice, log entry 6.) -/
def Obligations.ServedCommandCompletes : Prop :=
  ∀ (s : State) (p : Port) (es : List Event), s.events = .serve p :: es →
    ∃ t, step s = .next t ∧ t.events = es ∧ t.outstanding = s.outstanding.set p none

/-- R63: "Every command, legal or not, produces exactly one response", on its own port, with RIDX and WIDX as the step left them;
no other event produces one. (The record of responses is the model's own, log entry 8.) -/
def Obligations.OneResponsePerCommand : Prop :=
  ∀ (s t : State), step s = .next t →
    (∀ p w es, s.events = .serve p :: es → s.outstanding.get p = some w → ∃ st v, s.answers t p st v) ∧
    ((∀ p es w, ¬ (s.events = .serve p :: es ∧ s.outstanding.get p = some w)) → t.replies = s.replies)

/-- R63: the fields of the 128-bit response, and the codes of STATUS (R67). -/
def Obligations.ResponseLayout : Prop :=
  ∀ r : Reply,
    r.pack.extractLsb' 0 2 = (match r.status with | .ok => 0#2 | .full => 1#2 | .nodata => 2#2 | .error => 3#2) ∧
    r.pack.extractLsb' 2 30 = 0#30 ∧ r.pack.extractLsb' 32 32 = r.value ∧
    r.pack.extractLsb' 64 32 = r.ridx ∧ r.pack.extractLsb' 96 32 = r.widx

/-- R170: hardware reset, from every state: every row of the table; `faults` is empty at the start of a run. That
the responses already given, the later events and the draw counter are kept is the model's choice (log entry 14). -/
def Obligations.HardwareResetEvent : Prop :=
  (∀ f, State.reset.faults.has f = false) ∧
  ∀ (s : State) (es : List Event), s.events = .reset :: es →
    ∃ t, step s = .next t ∧ t.ridx = 0 ∧ t.widx = 0 ∧ (∀ a, t.byteAt a = none) ∧ t.err = 0#32 ∧
      occ t.cfg t.ridx t.widx = .empty ∧ t.emptyO = true ∧ t.fullO = false ∧
      (∀ p, t.outstanding.get p = none) ∧ t.faults = s.faults ∧ t.cfg = s.cfg ∧
      t.replies = s.replies ∧ t.events = es ∧ t.draws = s.draws

/-- R170, R171: the state a run starts in. The parameters are the reference ones (the model's choice, log entry 1). -/
def Obligations.LaunchState : Prop :=
  State.reset.ridx = 0 ∧ State.reset.widx = 0 ∧ (∀ a, State.reset.byteAt a = none) ∧ State.reset.err = 0#32 ∧
  (∀ f, State.reset.faults.has f = false) ∧ (∀ p, State.reset.outstanding.get p = none) ∧
  occ State.reset.cfg State.reset.ridx State.reset.widx = .empty ∧
  State.reset.emptyO = true ∧ State.reset.fullO = false ∧ State.reset.cfg.log2Cap = 16

/-! ## Invariants of every step -/

/-- R134, R22, R24: every step keeps the indices in `[0, CAP)`, storage canonical and within `[0, CAP)`, and bits 31:6 of ERR 0. -/
def Obligations.StepKeepsInvariant : Prop :=
  ∀ s t : State, s.Inv → step s = .next t → t.Inv

/-- The invariant holds at reset, and the indices are not equal and non-zero there. -/
def Obligations.LaunchStateMeetsInvariants : Prop :=
  State.reset.Inv ∧ (State.reset.ridx = State.reset.widx → State.reset.ridx = 0)

/-- R171: "A state with `ridx = widx != 0` is reachable from reset only through a recorded fault (REGISTER_WRITES over its bound)":
the implication is kept by every step. -/
def Obligations.EqualNonzeroIndicesNeedWriteOverrun : Prop :=
  ∀ s t : State, s.Inv →
    (s.ridx = s.widx → s.ridx = 0 ∨ s.faults.has .writeOverrun = true) →
    step s = .next t →
    (t.ridx = t.widx → t.ridx = 0 ∨ t.faults.has .writeOverrun = true)

/-- R170: "The parameters `LOG2_CAP` and `HAS_POP_WORD` are fixed before reset and never change". -/
def Obligations.ParametersNeverChange : Prop :=
  ∀ s t : State, step s = .next t → t.cfg = s.cfg

/-- R156: "`faults` only grows": no step removes a reason, not INIT and not reset. -/
def Obligations.FaultRecordOnlyGrows : Prop :=
  ∀ (s t : State) (f : FaultReason), step s = .next t → s.faults.has f = true → t.faults.has f = true

/-- R24, R158: a set bit of ERR stays set through every step but a reset and an INIT on the CONTROL port. -/
def Obligations.ErrorBitsAreSticky : Prop :=
  ∀ (s t : State) (k : Nat), step s = .next t → s.err.getLsbD k = true →
    (∀ es, s.events ≠ .reset :: es) →
    (∀ es, s.events = .serve .control :: es → s.outstanding.get .control ≠ some 0#64) →
    t.err.getLsbD k = true

/-- R151, R152, R153: what one legal command reports. An ERROR carries VALUE 0, sets exactly one of the bits 0 to 4 of ERR and records
the reason that R151's table gives that bit (or ILL, for POP_WORD in a block without it); any other STATUS sets no bit and records
nothing but UNWRITTEN_READ, and that only with OK. -/
def Obligations.OneConditionPerCommand : Prop :=
  ∀ (i : Instr) (s t : State), exec i s = .next t → ∃ st v, s.answers t i.port st v ∧
    (st = .error → v = 0#32 ∧ ∃ b f, (b, f) ∈ [(ErrBit.wovr, FaultReason.writeOverrun), (.rovr, .readOverrun),
        (.swlive, .storageWriteLive), (.srnl, .storageReadNotLive), (.oor, .storageOutOfRange), (.ill, .illegalCommand)] ∧
      t.err = s.err ||| (1#32 <<< b.position) ∧ t.faults = s.faults.add f) ∧
    (st ≠ .error → (t.err = s.err ∨ (i = .init ∧ t.err = 0#32)) ∧
      (t.faults = s.faults ∨ (st = .ok ∧ t.faults = s.faults.add .unwrittenRead)))

/-- R67: "Only PUSH_WORD returns FULL, and only POP_WORD returns NODATA". -/
def Obligations.FullAndNodataHaveOneSource : Prop :=
  ∀ (s t : State) (p : Port) (w : CmdWord) (es : List Event) (v : Word),
    s.events = .serve p :: es → s.outstanding.get p = some w → step s = .next t →
    (s.answers t p .full v → p = .producer ∧ w.extractLsb' 0 4 = 0x1#4) ∧
    (s.answers t p .nodata v → p = .consumer ∧ w = 0xA#64)

/-! ## The commands -/

/-- R80: PUSH_WORD, in its three cases, with everything it leaves unchanged. -/
def Obligations.PushWordResult : Prop :=
  ∀ (s : State) (v : Word), s.Inv →
    encode (.pushWord v) = (.producer, v ++ 0x00000001#32) ∧
    ∃ t, exec (.pushWord v) s = .next t ∧ s.sameEnvironment t ∧
      t.err = s.err ∧ t.faults = s.faults ∧ t.draws = s.draws ∧
      if s.ridx = s.widx then
        s.answers t .producer .ok 0#32 ∧ t.ridx = 0 ∧ t.widx = 4 ∧
        (∀ k, k < 4 → t.byteAt k = some (v.extractLsb' (8 * k) 8)) ∧
        (∀ a, 4 ≤ a → t.byteAt a = s.byteAt a)
      else if s.cfg.cap - 1 - (s.widx + s.cfg.cap - s.ridx) % s.cfg.cap < 4 then
        s.answers t .producer .full 0#32 ∧ t.ridx = s.ridx ∧ t.widx = s.widx ∧ s.sameStorage t
      else
        s.answers t .producer .ok 0#32 ∧ t.ridx = s.ridx ∧ t.widx = (s.widx + 4) % s.cfg.cap ∧
        (∀ k, k < 4 → t.byteAt ((s.widx + k) % s.cfg.cap) = some (v.extractLsb' (8 * k) 8)) ∧
        (∀ a, (∀ k, k < 4 → a ≠ (s.widx + k) % s.cfg.cap) → t.byteAt a = s.byteAt a)

/-- R81: the split write. With `next = w + 4 > CAP`, bytes `0 .. num_at_end-1` go to the tail of storage and the rest to offset 0, and
`widx` becomes `off_by = next - CAP`. -/
def Obligations.PushWordSplit : Prop :=
  ∀ (s : State) (v : Word), s.Inv → s.ridx ≠ s.widx → s.cfg.cap - 4 < s.widx →
    4 ≤ s.cfg.cap - 1 - (s.widx + s.cfg.cap - s.ridx) % s.cfg.cap →
    ∃ t, exec (.pushWord v) s = .next t ∧
      let next := s.widx + 4
      let offBy := next - s.cfg.cap
      let numAtEnd := 4 - offBy
      s.cfg.cap < next ∧ s.widx % 4 ≠ 0 ∧ t.widx = offBy ∧
      (∀ k, k < numAtEnd → s.widx + k < s.cfg.cap ∧ t.byteAt (s.widx + k) = some (v.extractLsb' (8 * k) 8)) ∧
      (∀ k, numAtEnd ≤ k → k < 4 → t.byteAt (k - numAtEnd) = some (v.extractLsb' (8 * k) 8))

/-- R82: where `r` and `w` are congruent modulo 4 and the buffer is not empty, "the test `avail(r, w) < 4`" and the reference's test
`next = r`, with `next = adv(w, 4)`, give the same answer, since `avail` is congruent to 3; PUSH_WORD and commits by multiples of 4 keep the congruence. -/
def Obligations.FullTestAgreesWithReference : Prop :=
  (∀ (c : Config) (r w : Nat), r < c.cap → w < c.cap → r ≠ w → r % 4 = w % 4 →
    avail c r w % 4 = 3 ∧ (avail c r w < 4 ↔ avail c r w = 3) ∧ (avail c r w < 4 ↔ adv c w 4 = r)) ∧
  (∀ (i : Instr) (s t : State), s.Inv →
    ((∃ v, i = .pushWord v) ∨ ∃ n : Word, n.toNat % 4 = 0 ∧ (i = .registerWrites n ∨ i = .registerReads n)) →
    exec i s = .next t → s.ridx % 4 = s.widx % 4 → t.ridx % 4 = t.widx % 4)

/-- R84: the effect of PUSH_WORD on occupancy, and that it never changes a live byte. -/
def Obligations.PushKeepsUnreadBytes : Prop :=
  ∀ (s : State) (v : Word), s.Inv →
    ∃ t st, exec (.pushWord v) s = .next t ∧ s.answers t .producer st 0#32 ∧
      (st = .ok → s.ridx ≠ s.widx → t.usedBytes = s.usedBytes + 4 ∧
        ∀ a, a < s.cfg.cap → s.isLive a = true → t.isLive a = true ∧ t.byteAt a = s.byteAt a) ∧
      (st = .ok → s.ridx = s.widx → t.usedBytes = 4 ∧ ∀ a, a < s.cfg.cap → (t.isLive a = true ↔ a < 4)) ∧
      (st = .ok → occ t.cfg t.ridx t.widx ≠ .empty) ∧
      (st ≠ .ok → st = .full ∧ t = s.plusReply .producer .full 0#32)

/-- R90, R155: POP_WORD, in its cases, with everything it leaves unchanged. The VALUE of a pop that meets a byte without a value is
a free draw (log entry 11): the statement says only that there is one, and holds for every one. -/
def Obligations.PopWordResult : Prop :=
  ∀ s : State, s.Inv →
    encode .popWord = (.consumer, 0x000000000000000A#64) ∧
    ∃ t, exec .popWord s = .next t ∧ s.sameEnvironment t ∧ s.sameStorage t ∧
      if s.cfg.hasPopWord = false then
        s.answers t .consumer .error 0#32 ∧ t.ridx = s.ridx ∧ t.widx = s.widx ∧ t.draws = s.draws ∧
        t.err = s.err ||| 0x20#32 ∧ t.faults = { s.faults with illegalCommand := true }
      else if (s.widx + s.cfg.cap - s.ridx) % s.cfg.cap < 4 then
        s.answers t .consumer .nodata 0#32 ∧ t.ridx = s.ridx ∧ t.widx = s.widx ∧ t.draws = s.draws ∧
        t.err = s.err ∧ t.faults = s.faults
      else
        t.err = s.err ∧
        (if (s.ridx + 4) % s.cfg.cap = s.widx then t.ridx = 0 ∧ t.widx = 0
          else t.ridx = (s.ridx + 4) % s.cfg.cap ∧ t.widx = s.widx) ∧
        (∀ b : Nat → Byte, (∀ k, k < 4 → s.byteAt ((s.ridx + k) % s.cfg.cap) = some (b k)) →
          s.answers t .consumer .ok (b 3 ++ b 2 ++ b 1 ++ b 0) ∧ t.faults = s.faults ∧ t.draws = s.draws) ∧
        (∀ k, k < 4 → s.byteAt ((s.ridx + k) % s.cfg.cap) = none →
          (∃ v, s.answers t .consumer .ok v) ∧ t.faults = { s.faults with unwrittenRead := true })

/-- R92, R155: STORAGE_READ, in its cases, with everything it leaves unchanged, and that no producer command changes a live byte, so
that a read of one is stable. The VALUE of a read that finds no value is a free draw, all 32 bits of it (log entry 10): the statement
says only that there is one, and holds for every one. -/
def Obligations.StorageReadResult : Prop :=
  ∀ (s : State) (a : Word), s.Inv →
    encode (.storageRead a) = (.consumer, a ++ 0x00000009#32) ∧
    (∀ (i : Instr) (u : State), a.toNat < s.cfg.cap → s.isLive a.toNat = true → i.port = .producer → exec i s = .next u →
      u.byteAt a.toNat = s.byteAt a.toNat) ∧
    ∃ t, exec (.storageRead a) s = .next t ∧ s.sameEnvironment t ∧ s.sameStorage t ∧ t.ridx = s.ridx ∧ t.widx = s.widx ∧
      if s.cfg.cap ≤ a.toNat then
        s.answers t .consumer .error 0#32 ∧ t.err = s.err ||| 0x10#32 ∧
        t.faults = { s.faults with storageOutOfRange := true } ∧ t.draws = s.draws
      else if (s.widx + s.cfg.cap - s.ridx) % s.cfg.cap ≤ (a.toNat + s.cfg.cap - s.ridx) % s.cfg.cap then
        s.answers t .consumer .error 0#32 ∧ t.err = s.err ||| 0x08#32 ∧
        t.faults = { s.faults with storageReadNotLive := true } ∧ t.draws = s.draws
      else
        t.err = s.err ∧
        (∀ b, s.byteAt a.toNat = some b →
          s.answers t .consumer .ok (0#24 ++ b) ∧ t.faults = s.faults ∧ t.draws = s.draws) ∧
        (s.byteAt a.toNat = none →
          (∃ v, s.answers t .consumer .ok v) ∧ t.faults = { s.faults with unwrittenRead := true })

/-- R102: REGISTER_WRITES, with everything it leaves unchanged. -/
def Obligations.RegisterWritesResult : Prop :=
  ∀ (s : State) (n : Word), s.Inv →
    encode (.registerWrites n) = (.producer, n ++ 0x00000002#32) ∧
    ∃ t, exec (.registerWrites n) s = .next t ∧ s.sameEnvironment t ∧ s.sameStorage t ∧
      t.draws = s.draws ∧ t.ridx = s.ridx ∧ t.widx = (s.widx + n.toNat) % s.cfg.cap ∧
      if (if s.ridx ≤ s.widx then if s.ridx = 0 then s.cfg.cap - 1 - s.widx else s.cfg.cap - s.widx
          else s.ridx - s.widx - 1) < n.toNat then
        s.answers t .producer .error 0#32 ∧ t.err = s.err ||| 0x01#32 ∧ t.faults = { s.faults with writeOverrun := true }
      else
        s.answers t .producer .ok 0#32 ∧ t.err = s.err ∧ t.faults = s.faults

/-- R104: STORAGE_WRITE, with everything it leaves unchanged. -/
def Obligations.StorageWriteResult : Prop :=
  ∀ (s : State) (a : Word) (b : Byte), s.Inv →
    encode (.storageWrite a b) = (.producer, a ++ 0#16 ++ b ++ 0x05#8) ∧
    ∃ t, exec (.storageWrite a b) s = .next t ∧ s.sameEnvironment t ∧
      t.draws = s.draws ∧ t.ridx = s.ridx ∧ t.widx = s.widx ∧
      if s.cfg.cap ≤ a.toNat then
        s.answers t .producer .error 0#32 ∧ s.sameStorage t ∧ t.err = s.err ||| 0x10#32 ∧
        t.faults = { s.faults with storageOutOfRange := true }
      else if (a.toNat + s.cfg.cap - s.ridx) % s.cfg.cap < (s.widx + s.cfg.cap - s.ridx) % s.cfg.cap then
        s.answers t .producer .error 0#32 ∧ s.sameStorage t ∧ t.err = s.err ||| 0x04#32 ∧
        t.faults = { s.faults with storageWriteLive := true }
      else
        s.answers t .producer .ok 0#32 ∧ t.err = s.err ∧ t.faults = s.faults ∧
        t.byteAt a.toNat = some b ∧ ∀ x, x ≠ a.toNat → t.byteAt x = s.byteAt x

/-- R110: REGISTER_READS, with everything it leaves unchanged. -/
def Obligations.RegisterReadsResult : Prop :=
  ∀ (s : State) (n : Word), s.Inv →
    encode (.registerReads n) = (.consumer, n ++ 0x00000006#32) ∧
    ∃ t, exec (.registerReads n) s = .next t ∧ s.sameEnvironment t ∧ s.sameStorage t ∧ t.draws = s.draws ∧
      (if (s.ridx + n.toNat) % s.cfg.cap = s.widx then t.ridx = 0 ∧ t.widx = 0
        else t.ridx = (s.ridx + n.toNat) % s.cfg.cap ∧ t.widx = s.widx) ∧
      if (if s.ridx ≤ s.widx then s.widx - s.ridx else s.cfg.cap - s.ridx) < n.toNat then
        s.answers t .consumer .error 0#32 ∧ t.err = s.err ||| 0x02#32 ∧ t.faults = { s.faults with readOverrun := true }
      else
        s.answers t .consumer .ok 0#32 ∧ t.err = s.err ∧ t.faults = s.faults

/-- R100: CONTIG_SPACE_AVAILABLE on every port; the response is all that changes. -/
def Obligations.ContigSpaceAvailableResult : Prop :=
  ∀ (s : State) (p : Port), s.Inv →
    encode (.contigSpaceAvailable p) = (p, 0x0000000000000003#64) ∧
    ∃ v, exec (.contigSpaceAvailable p) s = .next (s.plusReply p .ok v) ∧
      v.toNat = if s.ridx ≤ s.widx then if s.ridx = 0 then s.cfg.cap - 1 - s.widx else s.cfg.cap - s.widx
        else s.ridx - s.widx - 1

/-- R108: CONTIG_SPACE_USED on every port; the response is all that changes. -/
def Obligations.ContigSpaceUsedResult : Prop :=
  ∀ (s : State) (p : Port), s.Inv →
    encode (.contigSpaceUsed p) = (p, 0x0000000000000007#64) ∧
    ∃ v, exec (.contigSpaceUsed p) s = .next (s.plusReply p .ok v) ∧
      v.toNat = if s.ridx ≤ s.widx then s.widx - s.ridx else s.cfg.cap - s.ridx

/-- R114: SPACE_AVAILABLE on every port; the response is all that changes. -/
def Obligations.SpaceAvailableResult : Prop :=
  ∀ (s : State) (p : Port), s.Inv →
    encode (.spaceAvailable p) = (p, 0x0000000000000004#64) ∧
    ∃ v, exec (.spaceAvailable p) s = .next (s.plusReply p .ok v) ∧
      v.toNat = s.cfg.cap - 1 - (s.widx + s.cfg.cap - s.ridx) % s.cfg.cap

/-- R116: SPACE_USED on every port; the response is all that changes. -/
def Obligations.SpaceUsedResult : Prop :=
  ∀ (s : State) (p : Port), s.Inv →
    encode (.spaceUsed p) = (p, 0x0000000000000008#64) ∧
    ∃ v, exec (.spaceUsed p) s = .next (s.plusReply p .ok v) ∧
      v.toNat = (s.widx + s.cfg.cap - s.ridx) % s.cfg.cap

/-- R130: GET_STATE on every port, field by field; the response is all that changes. -/
def Obligations.GetStateResult : Prop :=
  ∀ (s : State) (p : Port), s.Inv →
    encode (.getState p) = (p, 0x000000000000000B#64) ∧
    ∃ v, exec (.getState p) s = .next (s.plusReply p .ok v) ∧
      v.extractLsb' 0 2 = (if s.ridx = s.widx then 0#2
        else if s.cfg.cap - 1 - (s.widx + s.cfg.cap - s.ridx) % s.cfg.cap < 4 then 2#2 else 1#2) ∧
      v.extractLsb' 2 6 = 0#6 ∧ v.extractLsb' 8 6 = s.err.extractLsb' 0 6 ∧ v.extractLsb' 14 2 = 0#2 ∧
      (v.extractLsb' 16 8).toNat = s.cfg.log2Cap ∧ v.getLsbD 24 = s.cfg.hasPopWord ∧ v.extractLsb' 25 7 = 0#7

/-- R131: INIT, from every state, and that a second INIT leaves the same state but for its response. -/
def Obligations.InitResult : Prop :=
  ∀ s : State, encode .init = (.control, 0#64) ∧ ∃ t, exec .init s = .next t ∧ s.sameEnvironment t ∧ s.answers t .control .ok 0#32 ∧
    t.ridx = 0 ∧ t.widx = 0 ∧ t.err = 0#32 ∧ (∀ a, t.byteAt a = none) ∧ t.faults = s.faults ∧ t.draws = s.draws ∧
    exec .init t = .next (t.plusReply .control .ok 0#32)

/-- R54: repeating a query gives the same response, and the first one changed nothing another command could see. -/
def Obligations.QueriesAreIdempotent : Prop :=
  ∀ (i : Instr) (s t : State), i.opcode ∈ [Opcode.contigSpaceAvailable, .contigSpaceUsed, .spaceAvailable, .spaceUsed, .getState] →
    exec i s = .next t →
    ∃ v, t = s.plusReply i.port .ok v ∧ exec i t = .next (t.plusReply i.port .ok v)

/-- R22: "Writers: PUSH_WORD (4 bytes) and STORAGE_WRITE (1 byte)"; INIT leaves every byte without a value (R131). No other
command changes a storage byte. -/
def Obligations.OnlyThreeCommandsWriteStorage : Prop :=
  ∀ (i : Instr) (s t : State), exec i s = .next t →
    i.opcode ∉ [Opcode.pushWord, .storageWrite, .init] → t.stor = s.stor

/-- R20, R21, R51: who changes which index. Only PRODUCER commands advance `widx` and only CONSUMER commands advance `ridx`; the
exceptions are the two empty resets, and INIT. -/
def Obligations.SingleWriterPerIndex : Prop :=
  ∀ (i : Instr) (s t : State), exec i s = .next t →
    (t.widx ≠ s.widx → i.opcode ∈ [Opcode.pushWord, .registerWrites] ∨
      (i.opcode ∈ [Opcode.registerReads, .popWord] ∧ t.ridx = 0 ∧ t.widx = 0) ∨ (i = .init ∧ t.widx = 0)) ∧
    (t.ridx ≠ s.ridx → i.opcode ∈ [Opcode.registerReads, .popWord] ∨
      (i.opcode = .pushWord ∧ s.ridx = s.widx ∧ t.ridx = 0) ∨ (i = .init ∧ t.ridx = 0))

/-! ## Occupancy accounting -/

/-- R27: "`used + avail = EFF_CAP` holds in every state", and `avail` is always in `[0, EFF_CAP]`. -/
def Obligations.CapacityConservation : Prop :=
  ∀ (c : Config) (r w : Nat), r < c.cap → w < c.cap →
    used c r w + avail c r w = c.cap - 1 ∧ avail c r w ≤ c.cap - 1

/-- R28: the branches of `contig_avail`, on integers without truncation, and `contig_avail <= avail`. -/
def Obligations.ContigAvailIsBounded : Prop :=
  ∀ (c : Config) (r w : Nat), r < c.cap → w < c.cap →
    ((contigAvail c r w : Int) = if (w : Int) ≥ r then if (r : Int) = 0 then (c.cap : Int) - 1 - w else (c.cap : Int) - w
      else (r : Int) - w - 1) ∧
    contigAvail c r w ≤ avail c r w

/-- R29: the branches of `contig_used`, on integers without truncation, and `contig_used <= used`, with equality when `w >= r`. -/
def Obligations.ContigUsedIsBounded : Prop :=
  ∀ (c : Config) (r w : Nat), r < c.cap → w < c.cap →
    ((contigUsed c r w : Int) = if (w : Int) ≥ r then (w : Int) - r else (c.cap : Int) - r) ∧
    contigUsed c r w ≤ used c r w ∧ (r ≤ w → contigUsed c r w = used c r w)

/-- R31: `used = 0` iff `r = w` iff EMPTY, and the live interval never covers the whole storage. -/
def Obligations.EmptyDisambiguation : Prop :=
  ∀ (c : Config) (r w : Nat), r < c.cap → w < c.cap →
    (used c r w = 0 ↔ r = w) ∧ (r = w ↔ occ c r w = .empty) ∧ used c r w ≤ c.cap - 1 ∧
    ∃ a, a < c.cap ∧ live c r w a = false

/-- R32: the commit bound law and its mirror for reads. -/
def Obligations.CommitBoundLaw : Prop :=
  ∀ (c : Config) (r w n : Nat), r < c.cap → w < c.cap →
    (n ≤ contigAvail c r w → adv c w n = r → n = 0 ∧ r = w) ∧
    (n ≤ contigUsed c r w → (adv c r n = w ↔ n = used c r w))

/-- R16, R55: "The one byte that can never be live is at `(ridx - 1) mod CAP`". -/
def Obligations.ReservedSlotIsNeverLive : Prop :=
  ∀ (c : Config) (r w : Nat), r < c.cap → w < c.cap → live c r w ((r + c.cap - 1) % c.cap) = false

/-- R30, R33: the level output FULL_O predicts exactly when a push responds FULL, and never stands with EMPTY_O. -/
def Obligations.FullOutputPredictsPush : Prop :=
  ∀ (s : State) (v : Word), s.Inv →
    (s.fullO = true ↔ exec (.pushWord v) s = .next (s.plusReply .producer .full 0#32)) ∧
    (s.emptyO = true ↔ s.ridx = s.widx) ∧ ¬ (s.emptyO = true ∧ s.fullO = true)

/-- R132: the transition table of the occupancy states, inside each command's contract. -/
def Obligations.OccupancyTransitions : Prop :=
  ∀ (i : Instr) (s t : State), s.Inv → exec i s = .next t →
    (∀ n, i = .registerWrites n → n.toNat ≤ contigAvail s.cfg s.ridx s.widx) →
    (∀ n, i = .registerReads n → n.toNat ≤ contigUsed s.cfg s.ridx s.widx) →
    let o := occ s.cfg s.ridx s.widx
    let o' := occ t.cfg t.ridx t.widx
    match i with
    | .pushWord _ => (o = .empty → o' = if s.cfg.cap = 8 then .full else .partly) ∧ (o = .partly → o' ≠ .empty) ∧
        (o = .full → t = s.plusReply .producer .full 0#32)
    | .registerWrites n => (o = .empty → n = 0#32 → o' = .empty) ∧ (o = .empty → n ≠ 0#32 → o' ≠ .empty) ∧
        (o = .partly → o' ≠ .empty) ∧ (o = .full → o' = .full)
    | .registerReads _ => (o = .empty → o' = .empty) ∧ (o = .partly → o' ≠ .full)
    | .popWord => s.cfg.hasPopWord = true →
        (o = .empty → t = s.plusReply .consumer .nodata 0#32) ∧ (o = .partly → o' ≠ .full) ∧
        (s.usedBytes < 4 → t = s.plusReply .consumer .nodata 0#32) ∧
        (o = .full → o' = .partly ∨ (o' = .empty ∧ s.cfg.cap = 8))
    | .init => o' = .empty
    | .contigSpaceAvailable _ | .spaceAvailable _ | .storageWrite _ _ | .contigSpaceUsed _ | .spaceUsed _
    | .storageRead _ | .getState _ => o' = o

/-- R133: FULL to EMPTY in one command is admitted by REGISTER_READS inside its contract, in every block, and by POP_WORD only when
`CAP < 16`. -/
def Obligations.FullToEmptyInOneCommand : Prop :=
  (∀ c : Config, ∃ (s t : State) (n : Word), s.cfg = c ∧ s.Inv ∧ occ c s.ridx s.widx = .full ∧
    n.toNat ≤ contigUsed c s.ridx s.widx ∧ exec (.registerReads n) s = .next t ∧ occ c t.ridx t.widx = .empty ∧
    t.faults = s.faults) ∧
  (∀ s t : State, s.Inv → 16 ≤ s.cfg.cap → occ s.cfg s.ridx s.widx = .full → exec .popWord s = .next t →
    occ t.cfg t.ridx t.widx ≠ .empty)

/-! ## The queue -/

/-- R134, R84: the live bytes, read from `ridx` in wrapped order, are a queue: the producer's commands append to it. PUSH_WORD appends the
four bytes of its word, or nothing when FULL; REGISTER_WRITES inside its contract appends the bytes at `widx`; STORAGE_WRITE and the queries
leave it as it is; INIT empties it. -/
def Obligations.ProducerCommandsAppend : Prop :=
  ∀ (i : Instr) (s t : State), s.Inv → exec i s = .next t →
    match i with
    | .pushWord v =>
        t.contents = if s.ridx ≠ s.widx ∧ avail s.cfg s.ridx s.widx < 4 then s.contents
          else s.contents ++ (List.range 4).map (fun k => some (v.extractLsb' (8 * k) 8))
    | .registerWrites n => n.toNat ≤ contigAvail s.cfg s.ridx s.widx →
        t.contents = s.contents ++ (List.range n.toNat).map (fun k => s.byteAt (s.widx + k))
    | .init => t.contents = []
    | .registerReads _ | .popWord => True
    | .storageWrite _ _ | .contigSpaceAvailable _ | .spaceAvailable _ | .contigSpaceUsed _ | .spaceUsed _ | .storageRead _
    | .getState _ => t.contents = s.contents

/-- R134: the consumer's commands take from the front of the queue. REGISTER_READS inside its contract drops `n` bytes; POP_WORD
drops the four bytes it returns, in the order they were appended, or none when it responds NODATA. -/
def Obligations.ConsumerCommandsTakeFromFront : Prop :=
  ∀ (s t : State), s.Inv →
    (∀ n : Word, n.toNat ≤ contigUsed s.cfg s.ridx s.widx → exec (.registerReads n) s = .next t →
      t.contents = s.contents.drop n.toNat) ∧
    (s.cfg.hasPopWord = true → exec .popWord s = .next t →
      if s.contents.length < 4 then t.contents = s.contents ∧ s.answers t .consumer .nodata 0#32
      else t.contents = s.contents.drop 4 ∧ ∃ v, s.answers t .consumer .ok v ∧
        ∀ b0 b1 b2 b3 : Byte, s.contents.take 4 = [some b0, some b1, some b2, some b3] → v = b3 ++ b2 ++ b1 ++ b0)

/-- R42, R80, R92: after a PUSH_WORD that responds OK from write offset `w0`, STORAGE_READ at `adv(w0, k)` returns byte `k` of the word,
least significant byte first. -/
def Obligations.PushedWordReadsBack : Prop :=
  ∀ (s : State) (v : Word) (k : Nat), s.Inv → k < 4 → (s.ridx = s.widx ∨ 4 ≤ avail s.cfg s.ridx s.widx) →
    ∃ t, exec (.pushWord v) s = .next t ∧
      exec (.storageRead (BitVec.ofNat 32 (((if s.ridx = s.widx then 0 else s.widx) + k) % s.cfg.cap))) t
        = .next (t.plusReply .consumer .ok (0#24 ++ v.extractLsb' (8 * k) 8))

/-- R34, U6: the values of free bytes are unobservable: two states that differ in them alone give the same response to every command,
the same indices, ERR, fault record and draws. It is about one command: a REGISTER_WRITES may make differing bytes live, so the states
after it need not agree so again. That a live byte without a value gives equal responses rests on the model's own form of the free
draw, a function of the count of draws, on which the two states agree (log entries 9, 10 and 11). -/
def Obligations.FreeBytesAreUnobservable : Prop :=
  ∀ (i : Instr) (s s' t : State), s.Inv → s'.Inv → s.sameButFreeBytes s' → exec i s = .next t →
    ∃ t', exec i s' = .next t' ∧ t.replies = t'.replies ∧ t.ridx = t'.ridx ∧ t.widx = t'.widx ∧ t.err = t'.err ∧
      t.faults = t'.faults ∧ t.draws = t'.draws

/-- R134: every command but REGISTER_WRITES keeps every live byte written, as long as REGISTER_READS stays inside its contract. -/
def Obligations.LiveBytesStayWritten : Prop :=
  ∀ (i : Instr) (s t : State), s.Inv → s.liveBytesWritten → i.opcode ≠ .registerWrites →
    (∀ n, i = .registerReads n → n.toNat ≤ contigUsed s.cfg s.ridx s.widx) →
    exec i s = .next t → t.liveBytesWritten

/-! ## Hazards -/

/-- R176: the commit race. A REGISTER_READS that empties the buffer brings `widx` to 0, and a REGISTER_WRITES `m` after it makes the
bytes `0 .. m-1` live whatever region the producer had written, with no `err` bit and no fault. -/
def Obligations.CommitRaceIsSilent : Prop :=
  ∀ (s : State) (n m : Word), s.Inv → n.toNat = s.usedBytes → n.toNat ≤ contigUsed s.cfg s.ridx s.widx →
    m.toNat ≤ s.cfg.effCap →
    ∃ t u, exec (.registerReads n) s = .next t ∧ t.widx = 0 ∧ exec (.registerWrites m) t = .next u ∧
      t.answers u .producer .ok 0#32 ∧ u.widx = m.toNat ∧ u.err = s.err ∧ u.faults = s.faults ∧
      ∀ a, a < s.cfg.cap → (u.isLive a = true ↔ a < m.toNat)

/-- R178: a consumer command inside its contract that leaves `widx` alone never shrinks the region CONTIG_SPACE_AVAILABLE reported. -/
def Obligations.FreeSpaceViewStaysValid : Prop :=
  ∀ (i : Instr) (s t : State), s.Inv → i.opcode ∈ [Opcode.registerReads, .popWord, .storageRead] →
    (∀ n, i = .registerReads n → n.toNat ≤ contigUsed s.cfg s.ridx s.widx) →
    exec i s = .next t → t.widx = s.widx →
    contigAvail s.cfg s.ridx s.widx ≤ contigAvail t.cfg t.ridx t.widx

/-- R177: a producer command inside its contract leaves the region a consumer of a non-empty buffer was told of valid, byte for byte. -/
def Obligations.ConsumerRegionStaysValid : Prop :=
  ∀ (i : Instr) (s t : State), s.Inv → s.ridx ≠ s.widx →
    i.opcode ∈ [Opcode.pushWord, .registerWrites, .storageWrite] →
    (∀ n, i = .registerWrites n → n.toNat ≤ contigAvail s.cfg s.ridx s.widx) →
    exec i s = .next t →
    t.ridx = s.ridx ∧ contigUsed s.cfg s.ridx s.widx ≤ contigUsed t.cfg t.ridx t.widx ∧
    ∀ k, k < contigUsed s.cfg s.ridx s.widx → t.byteAt (s.ridx + k) = s.byteAt (s.ridx + k)
end

