-- ==== Sys2Proof/Laws/Occupancy.lean ====
section
/-! SUPPORT. The index arithmetic and the occupancy functions in closed form, for indices in `[0, CAP)`. -/

namespace Sys2Proof

theorem Config.eight_le_cap (c : Config) : 8 ≤ c.cap := by
  have : 2 ^ 3 ≤ 2 ^ c.log2Cap := Nat.pow_le_pow_right (by omega) (by unfold Config.log2Cap; omega)
  simpa [Config.cap] using this

theorem Config.cap_le (c : Config) : c.cap ≤ 2 ^ 32 :=
  Nat.pow_le_pow_right (by omega) (by have := c.log2CapOver3.isLt; unfold Config.log2Cap; omega)

theorem Config.effCap_eq (c : Config) : c.effCap = c.cap - 1 := rfl

/-- `CAP` is a multiple of 4 (00_scope.md R7). -/
theorem Config.four_dvd_cap (c : Config) : 4 ∣ c.cap := by
  have : 2 ^ 2 ∣ 2 ^ c.log2Cap := Nat.pow_dvd_pow 2 (by unfold Config.log2Cap; omega)
  simpa [Config.cap] using this

end Sys2Proof

namespace Sys2Proof.Machine

variable (c : Config)

theorem adv_lt (i n : Nat) : adv c i n < c.cap :=
  Nat.mod_lt _ (by have := c.eight_le_cap; omega)

theorem adv_of_lt {i n : Nat} (h : i + n < c.cap) : adv c i n = i + n := Nat.mod_eq_of_lt h

theorem adv_of_wrap {i n : Nat} (h : c.cap ≤ i + n) (h' : i + n < 2 * c.cap) : adv c i n = i + n - c.cap := by
  unfold adv
  rw [Nat.mod_eq_sub_mod h, Nat.mod_eq_of_lt (by omega)]

/-- One statement for both: an advance by at most `CAP` from an index in `[0, CAP)`. -/
theorem adv_eq {i n : Nat} (hi : i < c.cap) (hn : n ≤ c.cap) :
    adv c i n = if i + n < c.cap then i + n else i + n - c.cap := by
  split_ifs with h
  · exact adv_of_lt c h
  · exact adv_of_wrap c (by omega) (by omega)

theorem modDiff_eq {a r : Nat} (ha : a < c.cap) (hr : r < c.cap) :
    modDiff c a r = if r ≤ a then a - r else a + c.cap - r := by
  unfold modDiff
  split_ifs with h
  · rw [Int.emod_eq_of_lt (by omega) (by omega)]; omega
  · have : ((a : Int) - r) % (c.cap : Int) = (a : Int) - r + c.cap := by
      rw [← Int.add_emod_right, Int.emod_eq_of_lt (by omega) (by omega)]
    rw [this]; omega

/-- `used` in closed form. -/
theorem used_eq {r w : Nat} (hr : r < c.cap) (hw : w < c.cap) :
    used c r w = if r ≤ w then w - r else w + c.cap - r := modDiff_eq c hw hr

/-- The natural-number form of `(w - r) mod CAP`. -/
theorem modDiff_eq_mod {a r : Nat} (ha : a < c.cap) (hr : r < c.cap) :
    modDiff c a r = (a + c.cap - r) % c.cap := by
  rw [modDiff_eq c ha hr]
  split_ifs with h
  · rw [Nat.mod_eq_sub_mod (by omega), Nat.mod_eq_of_lt (by omega)]; omega
  · rw [Nat.mod_eq_of_lt (by omega)]

theorem used_lt {r w : Nat} (hr : r < c.cap) (hw : w < c.cap) : used c r w < c.cap := by
  rw [used_eq c hr hw]; split_ifs <;> omega

/-- `live` as membership of the circular interval `[r, w)`. -/
theorem live_iff {r w a : Nat} (hr : r < c.cap) (hw : w < c.cap) (ha : a < c.cap) :
    live c r w a = true ↔ if r ≤ w then r ≤ a ∧ a < w else r ≤ a ∨ a < w := by
  unfold live
  rw [decide_eq_true_iff, used_eq c hr hw, modDiff_eq c ha hr]
  split_ifs <;> omega

/-- The live offsets are `adv(r, k)` for `k < used(r, w)`. -/
theorem live_adv {r w k : Nat} (hr : r < c.cap) (hw : w < c.cap) (hk : k < used c r w) :
    live c r w (adv c r k) = true := by
  have hu := used_lt c hr hw
  rw [live_iff c hr hw (adv_lt c r k), adv_eq c hr (by omega)]
  rw [used_eq c hr hw] at hk
  split_ifs at hk ⊢ <;> omega

end Sys2Proof.Machine
end

