-- ==== Sys2Proof/Laws/State.lean ====
section
/-! SUPPORT. Each named update of State, field by field, so that no later proof unfolds a record update. -/

namespace Sys2Proof.Machine

variable (s : State)

/-! ### `setRidx` -/

@[simp] theorem State.setRidx_cfg (r : Nat) : (s.setRidx r).cfg = s.cfg := rfl
@[simp] theorem State.setRidx_ridx (r : Nat) : (s.setRidx r).ridx = r := rfl
@[simp] theorem State.setRidx_widx (r : Nat) : (s.setRidx r).widx = s.widx := rfl
@[simp] theorem State.setRidx_stor (r : Nat) : (s.setRidx r).stor = s.stor := rfl
@[simp] theorem State.setRidx_err (r : Nat) : (s.setRidx r).err = s.err := rfl
@[simp] theorem State.setRidx_faults (r : Nat) : (s.setRidx r).faults = s.faults := rfl
@[simp] theorem State.setRidx_outstanding (r : Nat) : (s.setRidx r).outstanding = s.outstanding := rfl
@[simp] theorem State.setRidx_events (r : Nat) : (s.setRidx r).events = s.events := rfl
@[simp] theorem State.setRidx_replies (r : Nat) : (s.setRidx r).replies = s.replies := rfl
@[simp] theorem State.setRidx_draws (r : Nat) : (s.setRidx r).draws = s.draws := rfl

/-! ### `setWidx` -/

@[simp] theorem State.setWidx_cfg (w : Nat) : (s.setWidx w).cfg = s.cfg := rfl
@[simp] theorem State.setWidx_ridx (w : Nat) : (s.setWidx w).ridx = s.ridx := rfl
@[simp] theorem State.setWidx_widx (w : Nat) : (s.setWidx w).widx = w := rfl
@[simp] theorem State.setWidx_stor (w : Nat) : (s.setWidx w).stor = s.stor := rfl
@[simp] theorem State.setWidx_err (w : Nat) : (s.setWidx w).err = s.err := rfl
@[simp] theorem State.setWidx_faults (w : Nat) : (s.setWidx w).faults = s.faults := rfl
@[simp] theorem State.setWidx_outstanding (w : Nat) : (s.setWidx w).outstanding = s.outstanding := rfl
@[simp] theorem State.setWidx_events (w : Nat) : (s.setWidx w).events = s.events := rfl
@[simp] theorem State.setWidx_replies (w : Nat) : (s.setWidx w).replies = s.replies := rfl
@[simp] theorem State.setWidx_draws (w : Nat) : (s.setWidx w).draws = s.draws := rfl

/-! ### `setStor` -/

@[simp] theorem State.setStor_cfg (m : Memory) : (s.setStor m).cfg = s.cfg := rfl
@[simp] theorem State.setStor_ridx (m : Memory) : (s.setStor m).ridx = s.ridx := rfl
@[simp] theorem State.setStor_widx (m : Memory) : (s.setStor m).widx = s.widx := rfl
@[simp] theorem State.setStor_stor (m : Memory) : (s.setStor m).stor = m := rfl
@[simp] theorem State.setStor_err (m : Memory) : (s.setStor m).err = s.err := rfl
@[simp] theorem State.setStor_faults (m : Memory) : (s.setStor m).faults = s.faults := rfl
@[simp] theorem State.setStor_outstanding (m : Memory) : (s.setStor m).outstanding = s.outstanding := rfl
@[simp] theorem State.setStor_events (m : Memory) : (s.setStor m).events = s.events := rfl
@[simp] theorem State.setStor_replies (m : Memory) : (s.setStor m).replies = s.replies := rfl
@[simp] theorem State.setStor_draws (m : Memory) : (s.setStor m).draws = s.draws := rfl

/-! ### `setErr` -/

@[simp] theorem State.setErr_cfg (b : ErrBit) : (s.setErr b).cfg = s.cfg := rfl
@[simp] theorem State.setErr_ridx (b : ErrBit) : (s.setErr b).ridx = s.ridx := rfl
@[simp] theorem State.setErr_widx (b : ErrBit) : (s.setErr b).widx = s.widx := rfl
@[simp] theorem State.setErr_stor (b : ErrBit) : (s.setErr b).stor = s.stor := rfl
@[simp] theorem State.setErr_err (b : ErrBit) : (s.setErr b).err = errWith s.err b := rfl
@[simp] theorem State.setErr_faults (b : ErrBit) : (s.setErr b).faults = s.faults := rfl
@[simp] theorem State.setErr_outstanding (b : ErrBit) : (s.setErr b).outstanding = s.outstanding := rfl
@[simp] theorem State.setErr_events (b : ErrBit) : (s.setErr b).events = s.events := rfl
@[simp] theorem State.setErr_replies (b : ErrBit) : (s.setErr b).replies = s.replies := rfl
@[simp] theorem State.setErr_draws (b : ErrBit) : (s.setErr b).draws = s.draws := rfl

/-! ### `raise` -/

@[simp] theorem State.raise_cfg (f : FaultReason) : (s.raise f).cfg = s.cfg := rfl
@[simp] theorem State.raise_ridx (f : FaultReason) : (s.raise f).ridx = s.ridx := rfl
@[simp] theorem State.raise_widx (f : FaultReason) : (s.raise f).widx = s.widx := rfl
@[simp] theorem State.raise_stor (f : FaultReason) : (s.raise f).stor = s.stor := rfl
@[simp] theorem State.raise_err (f : FaultReason) : (s.raise f).err = s.err := rfl
@[simp] theorem State.raise_faults (f : FaultReason) : (s.raise f).faults = s.faults.add f := rfl
@[simp] theorem State.raise_outstanding (f : FaultReason) : (s.raise f).outstanding = s.outstanding := rfl
@[simp] theorem State.raise_events (f : FaultReason) : (s.raise f).events = s.events := rfl
@[simp] theorem State.raise_replies (f : FaultReason) : (s.raise f).replies = s.replies := rfl
@[simp] theorem State.raise_draws (f : FaultReason) : (s.raise f).draws = s.draws := rfl

/-! ### `draw` -/

@[simp] theorem State.draw_cfg : (s.draw).cfg = s.cfg := rfl
@[simp] theorem State.draw_ridx : (s.draw).ridx = s.ridx := rfl
@[simp] theorem State.draw_widx : (s.draw).widx = s.widx := rfl
@[simp] theorem State.draw_stor : (s.draw).stor = s.stor := rfl
@[simp] theorem State.draw_err : (s.draw).err = s.err := rfl
@[simp] theorem State.draw_faults : (s.draw).faults = s.faults := rfl
@[simp] theorem State.draw_outstanding : (s.draw).outstanding = s.outstanding := rfl
@[simp] theorem State.draw_events : (s.draw).events = s.events := rfl
@[simp] theorem State.draw_replies : (s.draw).replies = s.replies := rfl
@[simp] theorem State.draw_draws : (s.draw).draws = s.draws + 1 := rfl

/-! ### `reply` -/

@[simp] theorem State.reply_cfg (p : Port) (st : Status) (v : Word) : (s.reply p st v).cfg = s.cfg := rfl
@[simp] theorem State.reply_ridx (p : Port) (st : Status) (v : Word) : (s.reply p st v).ridx = s.ridx := rfl
@[simp] theorem State.reply_widx (p : Port) (st : Status) (v : Word) : (s.reply p st v).widx = s.widx := rfl
@[simp] theorem State.reply_stor (p : Port) (st : Status) (v : Word) : (s.reply p st v).stor = s.stor := rfl
@[simp] theorem State.reply_err (p : Port) (st : Status) (v : Word) : (s.reply p st v).err = s.err := rfl
@[simp] theorem State.reply_faults (p : Port) (st : Status) (v : Word) : (s.reply p st v).faults = s.faults := rfl
@[simp] theorem State.reply_outstanding (p : Port) (st : Status) (v : Word) : (s.reply p st v).outstanding = s.outstanding := rfl
@[simp] theorem State.reply_events (p : Port) (st : Status) (v : Word) : (s.reply p st v).events = s.events := rfl
@[simp] theorem State.reply_replies (p : Port) (st : Status) (v : Word) : (s.reply p st v).replies = ⟨p, st, v, BitVec.ofNat 32 s.ridx, BitVec.ofNat 32 s.widx⟩ :: s.replies :=
  rfl
@[simp] theorem State.reply_draws (p : Port) (st : Status) (v : Word) : (s.reply p st v).draws = s.draws := rfl

/-! ### `unwrittenRead` -/

@[simp] theorem State.unwrittenRead_cfg : (s.unwrittenRead).cfg = s.cfg := rfl
@[simp] theorem State.unwrittenRead_ridx : (s.unwrittenRead).ridx = s.ridx := rfl
@[simp] theorem State.unwrittenRead_widx : (s.unwrittenRead).widx = s.widx := rfl
@[simp] theorem State.unwrittenRead_stor : (s.unwrittenRead).stor = s.stor := rfl
@[simp] theorem State.unwrittenRead_err : (s.unwrittenRead).err = s.err := rfl
@[simp] theorem State.unwrittenRead_faults : (s.unwrittenRead).faults = s.faults.add .unwrittenRead := rfl
@[simp] theorem State.unwrittenRead_outstanding : (s.unwrittenRead).outstanding = s.outstanding := rfl
@[simp] theorem State.unwrittenRead_events : (s.unwrittenRead).events = s.events := rfl
@[simp] theorem State.unwrittenRead_replies : (s.unwrittenRead).replies = s.replies := rfl
@[simp] theorem State.unwrittenRead_draws : (s.unwrittenRead).draws = s.draws + 1 := rfl

/-! ### `produce` -/

@[simp] theorem State.produce_cfg (n : Nat) : (s.produce n).cfg = s.cfg := rfl
@[simp] theorem State.produce_ridx (n : Nat) : (s.produce n).ridx = s.ridx := rfl
@[simp] theorem State.produce_widx (n : Nat) : (s.produce n).widx = adv s.cfg s.widx n := rfl
@[simp] theorem State.produce_stor (n : Nat) : (s.produce n).stor = s.stor := rfl
@[simp] theorem State.produce_err (n : Nat) : (s.produce n).err = s.err := rfl
@[simp] theorem State.produce_faults (n : Nat) : (s.produce n).faults = s.faults := rfl
@[simp] theorem State.produce_outstanding (n : Nat) : (s.produce n).outstanding = s.outstanding := rfl
@[simp] theorem State.produce_events (n : Nat) : (s.produce n).events = s.events := rfl
@[simp] theorem State.produce_replies (n : Nat) : (s.produce n).replies = s.replies := rfl
@[simp] theorem State.produce_draws (n : Nat) : (s.produce n).draws = s.draws := rfl

/-! ### `clear` -/

@[simp] theorem State.clear_cfg : (s.clear).cfg = s.cfg := rfl
@[simp] theorem State.clear_ridx : (s.clear).ridx = 0 := rfl
@[simp] theorem State.clear_widx : (s.clear).widx = 0 := rfl
@[simp] theorem State.clear_stor : (s.clear).stor = [] := rfl
@[simp] theorem State.clear_err : (s.clear).err = 0#32 := rfl
@[simp] theorem State.clear_faults : (s.clear).faults = s.faults := rfl
@[simp] theorem State.clear_outstanding : (s.clear).outstanding = s.outstanding := rfl
@[simp] theorem State.clear_events : (s.clear).events = s.events := rfl
@[simp] theorem State.clear_replies : (s.clear).replies = s.replies := rfl
@[simp] theorem State.clear_draws : (s.clear).draws = s.draws := rfl

/-! ### `hardwareReset` -/

@[simp] theorem State.hardwareReset_cfg : (s.hardwareReset).cfg = s.cfg := rfl
@[simp] theorem State.hardwareReset_ridx : (s.hardwareReset).ridx = 0 := rfl
@[simp] theorem State.hardwareReset_widx : (s.hardwareReset).widx = 0 := rfl
@[simp] theorem State.hardwareReset_stor : (s.hardwareReset).stor = [] := rfl
@[simp] theorem State.hardwareReset_err : (s.hardwareReset).err = 0#32 := rfl
@[simp] theorem State.hardwareReset_faults : (s.hardwareReset).faults = s.faults := rfl
@[simp] theorem State.hardwareReset_outstanding : (s.hardwareReset).outstanding = Ports.idle := rfl
@[simp] theorem State.hardwareReset_events : (s.hardwareReset).events = s.events := rfl
@[simp] theorem State.hardwareReset_replies : (s.hardwareReset).replies = s.replies := rfl
@[simp] theorem State.hardwareReset_draws : (s.hardwareReset).draws = s.draws := rfl

/-! ### `setOutstanding` -/

@[simp] theorem State.setOutstanding_cfg (p : Port) (w : Option CmdWord) : (s.setOutstanding p w).cfg = s.cfg := rfl
@[simp] theorem State.setOutstanding_ridx (p : Port) (w : Option CmdWord) : (s.setOutstanding p w).ridx = s.ridx := rfl
@[simp] theorem State.setOutstanding_widx (p : Port) (w : Option CmdWord) : (s.setOutstanding p w).widx = s.widx := rfl
@[simp] theorem State.setOutstanding_stor (p : Port) (w : Option CmdWord) : (s.setOutstanding p w).stor = s.stor := rfl
@[simp] theorem State.setOutstanding_err (p : Port) (w : Option CmdWord) : (s.setOutstanding p w).err = s.err := rfl
@[simp] theorem State.setOutstanding_faults (p : Port) (w : Option CmdWord) : (s.setOutstanding p w).faults = s.faults := rfl
@[simp] theorem State.setOutstanding_outstanding (p : Port) (w : Option CmdWord) : (s.setOutstanding p w).outstanding = s.outstanding.set p w :=
  rfl
@[simp] theorem State.setOutstanding_events (p : Port) (w : Option CmdWord) : (s.setOutstanding p w).events = s.events := rfl
@[simp] theorem State.setOutstanding_replies (p : Port) (w : Option CmdWord) : (s.setOutstanding p w).replies = s.replies := rfl
@[simp] theorem State.setOutstanding_draws (p : Port) (w : Option CmdWord) : (s.setOutstanding p w).draws = s.draws := rfl

/-! ### `setEvents` -/

@[simp] theorem State.setEvents_cfg (es : List Event) : (s.setEvents es).cfg = s.cfg := rfl
@[simp] theorem State.setEvents_ridx (es : List Event) : (s.setEvents es).ridx = s.ridx := rfl
@[simp] theorem State.setEvents_widx (es : List Event) : (s.setEvents es).widx = s.widx := rfl
@[simp] theorem State.setEvents_stor (es : List Event) : (s.setEvents es).stor = s.stor := rfl
@[simp] theorem State.setEvents_err (es : List Event) : (s.setEvents es).err = s.err := rfl
@[simp] theorem State.setEvents_faults (es : List Event) : (s.setEvents es).faults = s.faults := rfl
@[simp] theorem State.setEvents_outstanding (es : List Event) : (s.setEvents es).outstanding = s.outstanding := rfl
@[simp] theorem State.setEvents_events (es : List Event) : (s.setEvents es).events = es := rfl
@[simp] theorem State.setEvents_replies (es : List Event) : (s.setEvents es).replies = s.replies := rfl
@[simp] theorem State.setEvents_draws (es : List Event) : (s.setEvents es).draws = s.draws := rfl

/-! ### `consume`: only the indices change -/

@[simp] theorem State.consume_cfg (n : Nat) : (s.consume n).cfg = s.cfg := by
  unfold State.consume; split <;> rfl
@[simp] theorem State.consume_stor (n : Nat) : (s.consume n).stor = s.stor := by
  unfold State.consume; split <;> rfl
@[simp] theorem State.consume_err (n : Nat) : (s.consume n).err = s.err := by
  unfold State.consume; split <;> rfl
@[simp] theorem State.consume_faults (n : Nat) : (s.consume n).faults = s.faults := by
  unfold State.consume; split <;> rfl
@[simp] theorem State.consume_outstanding (n : Nat) : (s.consume n).outstanding = s.outstanding := by
  unfold State.consume; split <;> rfl
@[simp] theorem State.consume_events (n : Nat) : (s.consume n).events = s.events := by
  unfold State.consume; split <;> rfl
@[simp] theorem State.consume_replies (n : Nat) : (s.consume n).replies = s.replies := by
  unfold State.consume; split <;> rfl
@[simp] theorem State.consume_draws (n : Nat) : (s.consume n).draws = s.draws := by
  unfold State.consume; split <;> rfl

theorem State.consume_ridx (n : Nat) :
    (s.consume n).ridx = if adv s.cfg s.ridx n = s.widx then 0 else adv s.cfg s.ridx n := by
  unfold State.consume; split <;> rfl

theorem State.consume_widx (n : Nat) :
    (s.consume n).widx = if adv s.cfg s.ridx n = s.widx then 0 else s.widx := by
  unfold State.consume; split <;> rfl

/-- Recording an unwritten read commutes with the advance of the read index. -/
theorem State.consume_unwrittenRead (n : Nat) : s.unwrittenRead.consume n = (s.consume n).unwrittenRead := by
  unfold State.consume State.unwrittenRead State.raise State.draw State.setRidx State.setWidx
  split_ifs <;> rfl

/-! ### Reading one byte sees the storage only -/

theorem State.byteAt_eq (a : Nat) : s.byteAt a = s.stor.read a := rfl

/-! ### The ports -/

@[simp] theorem Ports.get_set_self (q : Ports) (p : Port) (w : Option CmdWord) : (q.set p w).get p = w := by
  cases p <;> rfl

theorem Ports.get_set_other (q : Ports) (p p' : Port) (w : Option CmdWord) (h : p' ≠ p) :
    (q.set p w).get p' = q.get p' := by
  cases p <;> cases p' <;> first | rfl | exact absurd rfl h

end Sys2Proof.Machine
end

