-- ==== Sys2Proof/Laws/Memory.lean ====
section
/-! SUPPORT. The laws of storage: a read after a write, and every memory operation keeps the canonical form within `[0, CAP)`. -/

namespace Sys2Proof.Machine

@[simp] theorem Memory.read_nil (x : Nat) : Memory.read [] x = none := rfl

theorem Memory.read_write (m : Memory) (x y : Nat) (v : Byte) :
    (m.write x v).read y = if y = x then some v else m.read y := by
  induction m with
  | nil => simp [Memory.write, Memory.read, eq_comm]
  | cons c m ih =>
    obtain ⟨a, b⟩ := c
    simp only [Memory.write]
    split_ifs with h1 h2 h3 h4 <;> simp only [Memory.read] <;> split_ifs <;>
      first | rfl | omega | (rw [ih]; split_ifs; rfl)

theorem Memory.read_write_self (m : Memory) (x : Nat) (v : Byte) : (m.write x v).read x = some v := by
  simp [Memory.read_write]

theorem Memory.read_write_other (m : Memory) (x y : Nat) (v : Byte) (h : y ≠ x) :
    (m.write x v).read y = m.read y := by
  simp [Memory.read_write, h]

/-- A write lists no offset but its own and those listed before. -/
theorem Memory.mem_write {m : Memory} {x : Nat} {v : Byte} {c : Host.Cell} (h : c ∈ m.write x v) :
    c.1 = x ∨ c ∈ m := by
  induction m with
  | nil => simp_all [Memory.write]
  | cons d m ih =>
    simp only [Memory.write] at h
    split_ifs at h
    · rcases List.mem_cons.1 h with rfl | h
      · exact .inl rfl
      · exact .inr h
    · rcases List.mem_cons.1 h with rfl | h
      · exact .inl rfl
      · exact .inr (List.mem_cons_of_mem _ h)
    · rcases List.mem_cons.1 h with rfl | h
      · exact .inr List.mem_cons_self
      · exact (ih h).imp id (List.mem_cons_of_mem _)

theorem Memory.write_wf {m : Memory} (h : m.wf) (x : Nat) (v : Byte) : (m.write x v).wf := by
  induction m with
  | nil => simp [Memory.write]
  | cons d m ih =>
    obtain ⟨hd, hm⟩ := List.pairwise_cons.1 h
    simp only [Memory.write]
    split_ifs with h1 h2
    · refine List.pairwise_cons.2 ⟨?_, h⟩
      intro c hc
      rcases List.mem_cons.1 hc with rfl | hc
      · exact h1
      · exact lt_trans h1 (hd c hc)
    · exact List.pairwise_cons.2 ⟨fun c hc => by simpa [h2] using hd c hc, hm⟩
    · refine List.pairwise_cons.2 ⟨fun c hc => ?_, ih hm⟩
      rcases Memory.mem_write hc with hx | hc
      · show d.1 < c.1
        have : ¬ x < d.1 := h1
        have : ¬ x = d.1 := h2
        omega
      · exact hd c hc

theorem Memory.write_within {m : Memory} {n : Nat} (h : m.within n) {x : Nat} (hx : x < n) (v : Byte) :
    (m.write x v).within n := fun c hc => by
  rcases Memory.mem_write hc with hc | hc
  · omega
  · exact h c hc

/-- In the canonical form within `[0, n)`, an offset outside holds no value. -/
theorem Memory.read_of_within {m : Memory} {n x : Nat} (h : m.within n) (hx : n ≤ x) : m.read x = none := by
  induction m with
  | nil => rfl
  | cons c m ih =>
    have hc := h c List.mem_cons_self
    simp only [Memory.read]
    rw [if_neg (by omega)]
    exact ih fun d hd => h d (List.mem_cons_of_mem _ hd)

theorem memWrite_wf (c : Config) {m : Memory} (h : m.wf) (a : Nat) (bs : List Byte) : (memWrite c m a bs).wf := by
  induction bs generalizing m a with
  | nil => exact h
  | cons b bs ih => exact ih (Memory.write_wf h _ _) _

theorem memWrite_within (c : Config) {m : Memory} (h : m.within c.cap) (a : Nat) (bs : List Byte) :
    (memWrite c m a bs).within c.cap := by
  induction bs generalizing m a with
  | nil => exact h
  | cons b bs ih => exact ih (Memory.write_within h (adv_lt c a 0) _) _

/-- What a byte reads as after MemWrite of the four bytes of a word (00_scope.md R14). -/
theorem read_memWrite_word (c : Config) (m : Memory) (a x : Nat) (v : Word) :
    (memWrite c m a (bytesOf v)).read x =
      if x = adv c a 3 then some (v.extractLsb' 24 8)
      else if x = adv c a 2 then some (v.extractLsb' 16 8)
      else if x = adv c a 1 then some (v.extractLsb' 8 8)
      else if x = adv c a 0 then some (v.extractLsb' 0 8)
      else m.read x := by
  simp only [bytesOf, memWrite, Memory.read_write, adv, Nat.add_zero, Nat.add_assoc, Nat.reduceAdd]
  rfl

/-- The four offsets of a word access are distinct (00_scope.md R7: `CAP >= 8`). -/
theorem adv_inj_of_lt (c : Config) (a : Nat) {j k : Nat} (hj : j < c.cap) (hk : k < c.cap) (h : adv c a j = adv c a k) :
    j = k := by
  have h' : (a + j) ≡ (a + k) [MOD c.cap] := h
  have := Nat.ModEq.add_left_cancel' a h'
  simpa [Nat.ModEq, Nat.mod_eq_of_lt hj, Nat.mod_eq_of_lt hk] using this

/-- Byte `k` of a stored word reads back. -/
theorem read_memWrite_word_at (c : Config) (m : Memory) (a : Nat) (v : Word) {k : Nat} (hk : k < 4) :
    (memWrite c m a (bytesOf v)).read (adv c a k) = some (v.extractLsb' (8 * k) 8) := by
  have h8 := c.eight_le_cap
  have inj : ∀ j, j < 4 → j ≠ k → adv c a k ≠ adv c a j := fun j hj hne h =>
    hne (adv_inj_of_lt c a (by omega) (by omega) h.symm)
  rw [read_memWrite_word]
  interval_cases k
  · rw [if_neg (inj 3 (by omega) (by omega)), if_neg (inj 2 (by omega) (by omega)), if_neg (inj 1 (by omega) (by omega)),
      if_pos rfl]
  · rw [if_neg (inj 3 (by omega) (by omega)), if_neg (inj 2 (by omega) (by omega)), if_pos rfl]
  · rw [if_neg (inj 3 (by omega) (by omega)), if_pos rfl]
  · rw [if_pos rfl]

/-- A stored word changes no other byte. -/
theorem read_memWrite_word_other (c : Config) (m : Memory) (a x : Nat) (v : Word)
    (h : ∀ k, k < 4 → x ≠ adv c a k) : (memWrite c m a (bytesOf v)).read x = m.read x := by
  rw [read_memWrite_word, if_neg (h 3 (by omega)), if_neg (h 2 (by omega)), if_neg (h 1 (by omega)), if_neg (h 0 (by omega))]

@[simp] theorem length_memRead (c : Config) (m : Memory) (a n : Nat) : (memRead c m a n).length = n := by
  simp [memRead]

@[simp] theorem getElem_memRead (c : Config) (m : Memory) (a n k : Nat) (h : k < (memRead c m a n).length) :
    (memRead c m a n)[k] = m.read (adv c a k) := by
  simp [memRead]

/-- The word of a read of four bytes that all hold a value. -/
theorem wordOfRead_some (c : Config) (m : Memory) (a : Nat) (b0 b1 b2 b3 : Byte)
    (h0 : m.read (adv c a 0) = some b0) (h1 : m.read (adv c a 1) = some b1)
    (h2 : m.read (adv c a 2) = some b2) (h3 : m.read (adv c a 3) = some b3) :
    wordOfRead (memRead c m a 4) = some (wordOf b0 b1 b2 b3) := by
  simp [memRead, List.range_succ, wordOfRead, h0, h1, h2, h3]

/-- A read of four bytes has no word when one of them holds no value. -/
theorem wordOfRead_none (c : Config) (m : Memory) (a k : Nat) (hk : k < 4) (h : m.read (adv c a k) = none) :
    wordOfRead (memRead c m a 4) = none := by
  have e : memRead c m a 4 = [m.read (adv c a 0), m.read (adv c a 1), m.read (adv c a 2), m.read (adv c a 3)] := by
    simp [memRead, List.range_succ]
  rw [e]
  interval_cases k <;> rw [h] <;> simp [wordOfRead]

end Sys2Proof.Machine
end

