-- ==== Sys2Proof/Laws/Ops.lean ====
section
/-! SUPPORT. What each shared operation and each meaning can do, said once: the cases a proof cites in place of unfolding a definition. -/

namespace Sys2Proof.Machine

/-! ### The shared operations -/

@[simp] theorem respond_eq (p : Port) (st : Status) (v : Word) (s : State) : respond p st v s = .next (s.reply p st v) := rfl

/-- Reporting an error sets one bit of ERR, records one reason and responds ERROR with VALUE 0. -/
@[simp] theorem reportError_eq (p : Port) (b : ErrBit) (f : FaultReason) (s : State) :
    reportError p b f s = .next (((s.setErr b).raise f).reply p .error 0#32) := rfl

@[simp] theorem illegalCommand_eq (p : Port) (s : State) :
    illegalCommand p s = .next (((s.setErr .ill).raise .illegalCommand).reply p .error 0#32) := rfl

@[simp] theorem answerCount_eq (p : Port) (k : Nat) (s : State) :
    answerCount p k s = .next (s.reply p .ok (BitVec.ofNat 32 k)) := rfl

/-- Issuing a command completes on an idle port and stops on a busy one. -/
theorem issueCommand_cases (p : Port) (w : CmdWord) (s : State) :
    (s.outstanding.get p = none ∧ issueCommand p w s = .next (s.setOutstanding p (some w))) ∨
    (∃ w', s.outstanding.get p = some w' ∧ issueCommand p w s = .fault (.portBusy p)) := by
  unfold issueCommand
  split
  · exact .inl ⟨‹_›, rfl⟩
  · exact .inr ⟨_, ‹_›, rfl⟩

/-! ### ERR and the fault record -/

/-- Setting a bit of ERR leaves the reserved bits 31:6 as they are. -/
theorem errWith_reserved (e : BitVec 32) (b : ErrBit) : (errWith e b).extractLsb' 6 26 = e.extractLsb' 6 26 := by
  have h : ∀ b : ErrBit, (1#32 <<< b.position).extractLsb' 6 26 = 0#26 := fun b => by cases b <;> decide
  unfold errWith
  rw [BitVec.extractLsb'_or, h b, BitVec.or_zero]

@[simp] theorem FaultRecord.has_add (f : FaultRecord) (a b : FaultReason) :
    (f.add a).has b = (decide (a = b) || f.has b) := by
  cases a <;> cases b <;> rfl

/-! ### The meanings, case by case -/

theorem execPushWord_cases (v : Word) (s : State) :
    (s.ridx = s.widx ∧ execPushWord v s =
      .next ((((s.setStor (memWrite s.cfg s.stor 0 (bytesOf v))).setRidx 0).setWidx 4).reply .producer .ok 0#32)) ∨
    (s.ridx ≠ s.widx ∧ avail s.cfg s.ridx s.widx < 4 ∧ execPushWord v s = .next (s.reply .producer .full 0#32)) ∨
    (s.ridx ≠ s.widx ∧ 4 ≤ avail s.cfg s.ridx s.widx ∧ execPushWord v s =
      .next (((s.setStor (memWrite s.cfg s.stor s.widx (bytesOf v))).produce 4).reply .producer .ok 0#32)) := by
  unfold execPushWord
  split_ifs with h1 h2
  · exact .inl ⟨h1, rfl⟩
  · exact .inr (.inl ⟨h1, h2, rfl⟩)
  · exact .inr (.inr ⟨h1, by omega, rfl⟩)

theorem execPopWord_cases (s : State) :
    (s.cfg.hasPopWord = false ∧ execPopWord s = .next (((s.setErr .ill).raise .illegalCommand).reply .consumer .error 0#32)) ∨
    (s.cfg.hasPopWord = true ∧ used s.cfg s.ridx s.widx < 4 ∧ execPopWord s = .next (s.reply .consumer .nodata 0#32)) ∨
    (∃ v, s.cfg.hasPopWord = true ∧ 4 ≤ used s.cfg s.ridx s.widx ∧
      wordOfRead (memRead s.cfg s.stor s.ridx 4) = some v ∧
      execPopWord s = .next ((s.consume 4).reply .consumer .ok v)) ∨
    (s.cfg.hasPopWord = true ∧ 4 ≤ used s.cfg s.ridx s.widx ∧
      wordOfRead (memRead s.cfg s.stor s.ridx 4) = none ∧
      execPopWord s = .next ((s.unwrittenRead.consume 4).reply .consumer .ok (Config.freeWord s.draws))) := by
  unfold execPopWord
  split_ifs with h1 h2
  · exact .inl ⟨h1, rfl⟩
  · exact .inr (.inl ⟨by simpa using h1, h2, rfl⟩)
  · cases h : wordOfRead (memRead s.cfg s.stor s.ridx 4) with
    | some v => exact .inr (.inr (.inl ⟨v, by simpa using h1, by omega, rfl, rfl⟩))
    | none => exact .inr (.inr (.inr ⟨by simpa using h1, by omega, rfl, rfl⟩))

theorem execStorageRead_cases (a : Word) (s : State) :
    (s.cfg.cap ≤ a.toNat ∧ execStorageRead a s = .next (((s.setErr .oor).raise .storageOutOfRange).reply .consumer .error 0#32)) ∨
    (a.toNat < s.cfg.cap ∧ s.isLive a.toNat = false ∧
      execStorageRead a s = .next (((s.setErr .srnl).raise .storageReadNotLive).reply .consumer .error 0#32)) ∨
    (∃ b, a.toNat < s.cfg.cap ∧ s.isLive a.toNat = true ∧ s.byteAt a.toNat = some b ∧
      execStorageRead a s = .next (s.reply .consumer .ok (b.setWidth 32))) ∨
    (a.toNat < s.cfg.cap ∧ s.isLive a.toNat = true ∧ s.byteAt a.toNat = none ∧
      execStorageRead a s = .next (s.unwrittenRead.reply .consumer .ok (Config.freeWord s.draws))) := by
  unfold execStorageRead State.isLive offsetOf
  split_ifs with h1 h2
  · exact .inl ⟨h1, rfl⟩
  · exact .inr (.inl ⟨by omega, h2, rfl⟩)
  · have hl : live s.cfg s.ridx s.widx a.toNat = true := by simpa using h2
    cases h : s.byteAt a.toNat with
    | some b => exact .inr (.inr (.inl ⟨b, by omega, hl, rfl, rfl⟩))
    | none => exact .inr (.inr (.inr ⟨by omega, hl, rfl, rfl⟩))

theorem execStorageWrite_cases (a : Word) (b : Byte) (s : State) :
    (s.cfg.cap ≤ a.toNat ∧ execStorageWrite a b s = .next (((s.setErr .oor).raise .storageOutOfRange).reply .producer .error 0#32)) ∨
    (a.toNat < s.cfg.cap ∧ s.isLive a.toNat = true ∧
      execStorageWrite a b s = .next (((s.setErr .swlive).raise .storageWriteLive).reply .producer .error 0#32)) ∨
    (a.toNat < s.cfg.cap ∧ s.isLive a.toNat = false ∧
      execStorageWrite a b s = .next ((s.setStor (s.stor.write a.toNat b)).reply .producer .ok 0#32)) := by
  unfold execStorageWrite State.isLive offsetOf
  split_ifs with h1 h2
  · exact .inl ⟨h1, rfl⟩
  · exact .inr (.inl ⟨by omega, h2, rfl⟩)
  · exact .inr (.inr ⟨by omega, by simpa using h2, rfl⟩)

theorem execRegisterWrites_cases (n : Word) (s : State) :
    (contigAvail s.cfg s.ridx s.widx < n.toNat ∧
      execRegisterWrites n s = .next ((((s.produce n.toNat).setErr .wovr).raise .writeOverrun).reply .producer .error 0#32)) ∨
    (n.toNat ≤ contigAvail s.cfg s.ridx s.widx ∧
      execRegisterWrites n s = .next ((s.produce n.toNat).reply .producer .ok 0#32)) := by
  unfold execRegisterWrites countOf
  split_ifs with h
  · exact .inl ⟨h, rfl⟩
  · exact .inr ⟨by omega, rfl⟩

theorem execRegisterReads_cases (n : Word) (s : State) :
    (contigUsed s.cfg s.ridx s.widx < n.toNat ∧
      execRegisterReads n s = .next ((((s.consume n.toNat).setErr .rovr).raise .readOverrun).reply .consumer .error 0#32)) ∨
    (n.toNat ≤ contigUsed s.cfg s.ridx s.widx ∧
      execRegisterReads n s = .next ((s.consume n.toNat).reply .consumer .ok 0#32)) := by
  unfold execRegisterReads countOf
  split_ifs with h
  · exact .inl ⟨h, rfl⟩
  · exact .inr ⟨by omega, rfl⟩

/-! ### One step -/

/-- Everything a step can do, by the oldest event. -/
theorem step_cases (s : State) :
    (s.events = [] ∧ step s = .next s) ∨
    (∃ p w es, s.events = .issue p w :: es ∧ step s = issueCommand p w (s.setEvents es)) ∨
    (∃ p es, s.events = .serve p :: es ∧ s.outstanding.get p = none ∧ step s = .next (s.setEvents es)) ∨
    (∃ p w es, s.events = .serve p :: es ∧ s.outstanding.get p = some w ∧
      step s = runCommand p w ((s.setEvents es).setOutstanding p none)) ∨
    (∃ es, s.events = .reset :: es ∧ step s = .next (s.setEvents es).hardwareReset) := by
  unfold step
  split
  · exact .inl ⟨‹_›, rfl⟩
  · exact .inr (.inl ⟨_, _, _, ‹_›, rfl⟩)
  · rename_i p es h
    cases hp : s.outstanding.get p with
    | none => exact .inr (.inr (.inl ⟨p, es, h, hp, by simp [serveCommand, hp]⟩))
    | some w => exact .inr (.inr (.inr (.inl ⟨p, w, es, h, hp, by simp [serveCommand, hp]⟩)))
  · exact .inr (.inr (.inr (.inr ⟨_, ‹_›, rfl⟩)))

end Sys2Proof.Machine
end

