-- ==== Sys2Proof/Laws/PerInstr.lean ====
section
/-! SUPPORT. Facts of every instruction as syntax, one lemma per constructor of `Instr`. -/

namespace Sys2Proof.Laws.EncodedFields

/-- The encoded word holds the instruction's fields where 30_encoding.md R61 puts them, the reserved fields are 0, and the
port may issue the row (R65). -/
def Statement (i : Instr) : Prop :=
  Cmd.op (encode i).2 = i.opcode.bits ∧ Cmd.rsv0 (encode i).2 = 0#4 ∧ Cmd.bdata (encode i).2 = i.bdata ∧
  Cmd.rsv1 (encode i).2 = 0#16 ∧ Cmd.arg (encode i).2 = i.arg ∧ i.opcode.permits (encode i).1 = true

/-- One bit of an assembled word (R61). -/
theorem getLsbD_assemble (o : BitVec 4) (b : Byte) (a : Word) (j : Nat) :
    (Cmd.assemble o b a).getLsbD j =
      if j < 4 then o.getLsbD j else if j < 8 then false else if j < 16 then b.getLsbD (j - 8)
      else if j < 32 then false else a.getLsbD (j - 32) := by
  have h : (Cmd.assemble o b a).getLsbD j =
      BitVec.getLsbD (w := 32 + (16 + (8 + (4 + 4)))) (a ++ (0#16 ++ (b ++ (0#4 ++ o)))) j := rfl
  rw [h]
  simp only [BitVec.getLsbD_append]
  simp only [BitVec.getLsbD_zero, Nat.reduceAdd]
  split_ifs <;> first | rfl | omega

theorem op_assemble (o : BitVec 4) (b : Byte) (a : Word) : Cmd.op (Cmd.assemble o b a) = o := by
  refine BitVec.eq_of_getLsbD_eq fun i hi => ?_
  simp [Cmd.op, getLsbD_assemble, hi]

theorem rsv0_assemble (o : BitVec 4) (b : Byte) (a : Word) : Cmd.rsv0 (Cmd.assemble o b a) = 0#4 := by
  refine BitVec.eq_of_getLsbD_eq fun i hi => ?_
  simp [Cmd.rsv0, getLsbD_assemble, show 4 + i < 8 by omega]

theorem bdata_assemble (o : BitVec 4) (b : Byte) (a : Word) : Cmd.bdata (Cmd.assemble o b a) = b := by
  refine BitVec.eq_of_getLsbD_eq fun i hi => ?_
  simp [Cmd.bdata, getLsbD_assemble, hi, show ¬ 8 + i < 4 by omega, show 8 + i < 16 by omega]

theorem rsv1_assemble (o : BitVec 4) (b : Byte) (a : Word) : Cmd.rsv1 (Cmd.assemble o b a) = 0#16 := by
  refine BitVec.eq_of_getLsbD_eq fun i hi => ?_
  simp [Cmd.rsv1, getLsbD_assemble, show ¬ 16 + i < 4 by omega, show ¬ 16 + i < 8 by omega, show 16 + i < 32 by omega]

theorem arg_assemble (o : BitVec 4) (b : Byte) (a : Word) : Cmd.arg (Cmd.assemble o b a) = a := by
  refine BitVec.eq_of_getLsbD_eq fun i hi => ?_
  simp [Cmd.arg, getLsbD_assemble, hi, show ¬ 32 + i < 4 by omega, show ¬ 32 + i < 8 by omega, show ¬ 32 + i < 16 by omega]

/-- The fields of any encoded instruction; what is left per constructor is the port. -/
theorem of_permits (i : Instr) (h : i.opcode.permits i.port = true) : Statement i :=
  ⟨op_assemble _ _ _, rsv0_assemble _ _ _, bdata_assemble _ _ _, rsv1_assemble _ _ _, arg_assemble _ _ _, h⟩

theorem init : Statement .init := of_permits _ rfl
theorem pushWord (v : Word) : Statement (.pushWord v) := of_permits _ rfl
theorem registerWrites (n : Word) : Statement (.registerWrites n) := of_permits _ rfl
theorem contigSpaceAvailable (p : Port) : Statement (.contigSpaceAvailable p) := of_permits _ rfl
theorem spaceAvailable (p : Port) : Statement (.spaceAvailable p) := of_permits _ rfl
theorem storageWrite (a : Word) (b : Byte) : Statement (.storageWrite a b) := of_permits _ rfl
theorem registerReads (n : Word) : Statement (.registerReads n) := of_permits _ rfl
theorem contigSpaceUsed (p : Port) : Statement (.contigSpaceUsed p) := of_permits _ rfl
theorem spaceUsed (p : Port) : Statement (.spaceUsed p) := of_permits _ rfl
theorem storageRead (a : Word) : Statement (.storageRead a) := of_permits _ rfl
theorem popWord : Statement .popWord := of_permits _ rfl
theorem getState (p : Port) : Statement (.getState p) := of_permits _ rfl

end Sys2Proof.Laws.EncodedFields
end

