-- ==== Sys2Proof/Tests/Slice0.lean ====
section
/-! SUPPORT. Tests of single steps against the vectors of 95_test_vectors.md (CAP = 16 unless said otherwise), the decoding of one written-out word per instruction, the WellFormed smoke test, and a witness for the hypotheses of every statement. -/

namespace Sys2Proof.Tests

open Sys2Proof.Machine

/-! ## Small states -/

/-- A block with `CAP = 16`. -/
def cfg16 (pop : Bool) : Config := { log2CapOver3 := 1, hasPopWord := pop }

/-- A block with `CAP = 16`, the given indices and storage, and everything else as after reset. -/
def ring (pop : Bool) (r w : Nat) (m : Memory) : State :=
  { State.reset with cfg := cfg16 pop, ridx := r, widx := w, stor := m }

/-- The state with one event to come and one command outstanding on port `p`. -/
def serving (s : State) (p : Port) (w : CmdWord) : State :=
  { s with events := [.serve p], outstanding := s.outstanding.set p (some w) }

/-- What a test looks at after one step. -/
def after (o : Host.Outcome State Fault Refusal) : Option State :=
  match o with
  | .next t => some t
  | .fault _ => none
  | .refused _ => none

/-- The newest response, packed, and the indices. -/
def seen (o : Host.Outcome State Fault Refusal) : Option (Option (BitVec 128) × Nat × Nat) :=
  (after o).map fun t => (t.replies.head?.map Reply.pack, t.ridx, t.widx)

/-- The storage, ERR and the fault record. -/
def left (o : Host.Outcome State Fault Refusal) : Option (Memory × BitVec 32 × FaultRecord) :=
  (after o).map fun t => (t.stor, t.err, t.faults)

/-- The word 0x11223344 at offset 0 and 0xA1B2C3D4 after it (vector R1). -/
def twoWords : Memory :=
  [(0, 0x44#8), (1, 0x33#8), (2, 0x22#8), (3, 0x11#8), (4, 0xD4#8), (5, 0xC3#8), (6, 0xB2#8), (7, 0xA1#8)]

/-! ## WellFormed -/

/-- The one check of WellFormed: POP_WORD in a block without it is refused (R9). -/
theorem test_wf_refuses_pop_without_parameter : Instr.popWord.wf (cfg16 false) = false := by decide

theorem test_wf_accepts_pop_with_parameter : Instr.popWord.wf (cfg16 true) = true := by decide

/-! ## Decoding: one word per row, fields written out in the order ARG, RSV1, BDATA, RSV0, OP (R61) -/

theorem test_decode_init :
    decode .control (0x00000000#32 ++ 0x0000#16 ++ 0x00#8 ++ 0b0000#4 ++ 0b0000#4) = .ok .init := rfl
theorem test_decode_pushWord :
    decode .producer (0xA1B2C3D4#32 ++ 0x0000#16 ++ 0x00#8 ++ 0b0000#4 ++ 0b0001#4) = .ok (.pushWord 0xA1B2C3D4#32) := rfl
theorem test_decode_registerWrites :
    decode .producer (0xFFFFFFFF#32 ++ 0x0000#16 ++ 0x00#8 ++ 0b0000#4 ++ 0b0010#4) = .ok (.registerWrites 0xFFFFFFFF#32) := rfl
theorem test_decode_contigSpaceAvailable :
    decode .consumer (0x00000000#32 ++ 0x0000#16 ++ 0x00#8 ++ 0b0000#4 ++ 0b0011#4) = .ok (.contigSpaceAvailable .consumer) := rfl
theorem test_decode_spaceAvailable :
    decode .producer (0x00000000#32 ++ 0x0000#16 ++ 0x00#8 ++ 0b0000#4 ++ 0b0100#4) = .ok (.spaceAvailable .producer) := rfl
theorem test_decode_storageWrite :
    decode .producer (0x0000000C#32 ++ 0x0000#16 ++ 0xAB#8 ++ 0b0000#4 ++ 0b0101#4) = .ok (.storageWrite 12#32 0xAB#8) := rfl
theorem test_decode_registerReads :
    decode .consumer (0x0000000C#32 ++ 0x0000#16 ++ 0x00#8 ++ 0b0000#4 ++ 0b0110#4) = .ok (.registerReads 12#32) := rfl
theorem test_decode_contigSpaceUsed :
    decode .control (0x00000000#32 ++ 0x0000#16 ++ 0x00#8 ++ 0b0000#4 ++ 0b0111#4) = .ok (.contigSpaceUsed .control) := rfl
theorem test_decode_spaceUsed :
    decode .consumer (0x00000000#32 ++ 0x0000#16 ++ 0x00#8 ++ 0b0000#4 ++ 0b1000#4) = .ok (.spaceUsed .consumer) := rfl
theorem test_decode_storageRead :
    decode .consumer (0x00000010#32 ++ 0x0000#16 ++ 0x00#8 ++ 0b0000#4 ++ 0b1001#4) = .ok (.storageRead 16#32) := rfl
theorem test_decode_popWord :
    decode .consumer (0x00000000#32 ++ 0x0000#16 ++ 0x00#8 ++ 0b0000#4 ++ 0b1010#4) = .ok .popWord := rfl
theorem test_decode_getState :
    decode .producer (0x00000000#32 ++ 0x0000#16 ++ 0x00#8 ++ 0b0000#4 ++ 0b1011#4) = .ok (.getState .producer) := rfl

/-- Vectors E1 to E9, E12, E13, E15: every illegal spelling is refused by name. -/
theorem test_decode_refusals :
    decode .producer 0x000000000000000C#64 = .error .reservedOpcode ∧
    decode .consumer 0x000000000000000F#64 = .error .reservedOpcode ∧
    decode .producer 0x0000000000000000#64 = .error .wrongPort ∧
    decode .producer 0x1122334400000101#64 = .error .strayBdata ∧
    decode .producer 0x0000000100000003#64 = .error .strayArg ∧
    decode .producer 0x0000000000000011#64 = .error .reservedField ∧
    decode .producer 0x0000000000010003#64 = .error .reservedField ∧
    decode .producer 0x0000000000000006#64 = .error .wrongPort ∧
    decode .consumer 0x0000000000000002#64 = .error .wrongPort ∧
    decode .producer 0x000000000000000A#64 = .error .wrongPort ∧
    decode .consumer 0x0000000400001009#64 = .error .strayBdata ∧
    decode .control 0x0000000100000000#64 = .error .strayArg :=
  ⟨rfl, rfl, rfl, rfl, rfl, rfl, rfl, rfl, rfl, rfl, rfl, rfl⟩

/-- No word matches two rows of the opcode table: two patterns differ where both masks look. -/
theorem test_table_rows_do_not_overlap :
    opcodeTable.Pairwise (fun a b => a.pattern &&& (a.mask &&& b.mask) ≠ b.pattern &&& (a.mask &&& b.mask)) := by decide

/-- Assembler lines of 95_test_vectors.md (PR2, PR1, E10) and two refusals. -/
theorem test_assembler :
    assembleLine "[P] STORAGE_WRITE 12, 12 ; free".toList = .ok (some (.producer, 0x0000000C00000C05#64)) ∧
    assembleLine "[P] PUSH_WORD 0xAABBCCDD".toList = .ok (some (.producer, 0xAABBCCDD00000001#64)) ∧
    assembleLine "[K] NOP".toList = .ok (some (.control, 0x000000000000000B#64)) ∧
    assembleLine "[P] STORAGE_WRITE 12, 256".toList = .error .operandTooWide ∧
    assembleLine "[C] STORAGE_READ 4294967296".toList = .error .operandTooWide ∧
    assembleLine "; a comment".toList = .ok none :=
  ⟨rfl, rfl, rfl, rfl, rfl, rfl⟩

/-! ## PUSH_WORD -/

/-- P5: a split write, 3 bytes at the tail and 1 at offset 0. -/
theorem test_push_split :
    seen (exec (.pushWord 0xAABBCCDD#32) (ring false 8 13 [])) = some (some 0x00000001000000080000000000000000#128, 8, 1) ∧
    left (exec (.pushWord 0xAABBCCDD#32) (ring false 8 13 [])) =
      some ([(0, 0xAA#8), (13, 0xDD#8), (14, 0xCC#8), (15, 0xBB#8)], 0#32, FaultRecord.empty) := by decide

/-- P13 (V-L4), P7 and P8: the empty reset, and FULL where the reference would overwrite live bytes. -/
theorem test_push_empty_reset_and_full :
    seen (exec (.pushWord 0xDEADBEEF#32) (ring false 12 12 [])) = some (some 0x00000004000000000000000000000000#128, 0, 4) ∧
    seen (exec (.pushWord 0#32) (ring false 1 14 [])) = some (some 0x0000000E000000010000000000000001#128, 1, 14) ∧
    seen (exec (.pushWord 0#32) (ring false 10 8 [])) = some (some 0x000000080000000A0000000000000001#128, 10, 8) := by decide

/-! ## POP_WORD -/

/-- R1, R2 and R5: a pop, a draining pop, and a split pop that drains. -/
theorem test_pop :
    seen (exec .popWord (ring true 0 8 twoWords)) = some (some 0x00000008000000041122334400000000#128, 4, 8) ∧
    seen (exec .popWord (ring true 4 8 twoWords)) = some (some 0x0000000000000000A1B2C3D400000000#128, 0, 0) ∧
    seen (exec .popWord (ring true 14 2 [(0, 0x02#8), (1, 0x01#8), (14, 0x04#8), (15, 0x03#8)])) =
      some (some 0x00000000000000000102030400000000#128, 0, 0) := by decide

/-- R3, R7 and the indices and record of R8. -/
theorem test_pop_nodata_illegal_unwritten :
    seen (exec .popWord (ring true 0 2 [])) = some (some 0x00000002000000000000000000000002#128, 0, 2) ∧
    left (exec .popWord (ring false 0 8 [])) =
      some ([], 0x20#32, { FaultRecord.empty with illegalCommand := true }) ∧
    left (exec .popWord (ring true 0 4 [])) =
      some ([], 0#32, { FaultRecord.empty with unwrittenRead := true }) := by decide

/-! ## STORAGE_READ -/

/-- R9, R13: a live byte, also in the wrapped part. -/
theorem test_storage_read :
    seen (exec (.storageRead 4#32) (ring false 4 10 [(4, 0x5A#8)])) = some (some 0x0000000A000000040000005A00000000#128, 4, 10) ∧
    seen (exec (.storageRead 2#32) (ring false 10 4 [(2, 0x77#8)])) = some (some 0x000000040000000A0000007700000000#128, 10, 4) := by
  decide

/-- R11, R15, R16: the reserved slot, an offset that is not reduced, and a byte without a value. -/
theorem test_storage_read_errors :
    left (exec (.storageRead 3#32) (ring false 4 10 [])) =
      some ([], 0x08#32, { FaultRecord.empty with storageReadNotLive := true }) ∧
    left (exec (.storageRead 0xFFFFFFFF#32) (ring false 4 10 [])) =
      some ([], 0x10#32, { FaultRecord.empty with storageOutOfRange := true }) ∧
    left (exec (.storageRead 5#32) (ring false 4 10 [])) =
      some ([], 0#32, { FaultRecord.empty with unwrittenRead := true }) := by decide

/-! ## REGISTER_WRITES -/

/-- W2, W5, W10: commits inside the bound. -/
theorem test_register_writes :
    seen (exec (.registerWrites 6#32) (ring false 4 10 [])) = some (some 0x00000000000000040000000000000000#128, 4, 0) ∧
    seen (exec (.registerWrites 5#32) (ring false 10 4 [])) = some (some 0x000000090000000A0000000000000000#128, 10, 9) ∧
    seen (exec (.registerWrites 0#32) (ring false 5 4 [])) = some (some 0x00000004000000050000000000000000#128, 5, 4) := by decide

/-- W3, W8: above the bound the index still advances. -/
theorem test_register_writes_overrun :
    seen (exec (.registerWrites 6#32) (ring false 0 10 [])) = some (some 0x00000000000000000000000000000003#128, 0, 0) ∧
    seen (exec (.registerWrites 0xFFFFFFFF#32) (ring false 0 0 [])) = some (some 0x0000000F000000000000000000000003#128, 0, 15) ∧
    left (exec (.registerWrites 6#32) (ring false 0 10 [])) =
      some ([], 0x01#32, { FaultRecord.empty with writeOverrun := true }) := by decide

/-! ## REGISTER_READS -/

/-- RR1, RR4, RR6, RR7: the drain, the reset on `n = 0`, the drain at the wrap, and a plain advance. -/
theorem test_register_reads :
    seen (exec (.registerReads 12#32) (ring false 0 12 [])) = some (some 0x00000000000000000000000000000000#128, 0, 0) ∧
    seen (exec (.registerReads 0#32) (ring false 12 12 [])) = some (some 0x00000000000000000000000000000000#128, 0, 0) ∧
    seen (exec (.registerReads 6#32) (ring false 10 0 [])) = some (some 0x00000000000000000000000000000000#128, 0, 0) ∧
    seen (exec (.registerReads 2#32) (ring false 4 10 [])) = some (some 0x0000000A000000060000000000000000#128, 6, 10) := by decide

/-- RR3, RR9: above the bound the index still advances, and resets where it lands on `widx`. -/
theorem test_register_reads_overrun :
    seen (exec (.registerReads 7#32) (ring false 10 4 [])) = some (some 0x00000004000000010000000000000003#128, 1, 4) ∧
    seen (exec (.registerReads 22#32) (ring false 4 10 [])) = some (some 0x00000000000000000000000000000003#128, 0, 0) ∧
    left (exec (.registerReads 22#32) (ring false 4 10 [])) =
      some ([], 0x02#32, { FaultRecord.empty with readOverrun := true }) := by decide

/-! ## STORAGE_WRITE -/

/-- SW1, SW3, SW6: free bytes, the reserved slot among them. -/
theorem test_storage_write :
    left (exec (.storageWrite 12#32 0xAB#8) (ring false 4 10 [])) = some ([(12, 0xAB#8)], 0#32, FaultRecord.empty) ∧
    left (exec (.storageWrite 3#32 0x77#8) (ring false 4 10 [])) = some ([(3, 0x77#8)], 0#32, FaultRecord.empty) ∧
    left (exec (.storageWrite 4#32 0x11#8) (ring false 10 4 [])) = some ([(4, 0x11#8)], 0#32, FaultRecord.empty) := by decide

/-- SW2, SW4, SW7: live bytes and an offset out of range are not written. -/
theorem test_storage_write_errors :
    left (exec (.storageWrite 5#32 0xAB#8) (ring false 4 10 [])) =
      some ([], 0x04#32, { FaultRecord.empty with storageWriteLive := true }) ∧
    left (exec (.storageWrite 16#32 0x01#8) (ring false 4 10 [])) =
      some ([], 0x10#32, { FaultRecord.empty with storageOutOfRange := true }) ∧
    left (exec (.storageWrite 0#32 0x11#8) (ring false 10 4 [])) =
      some ([], 0x04#32, { FaultRecord.empty with storageWriteLive := true }) := by decide

/-! ## Queries (table 2.1 of 95_test_vectors.md) -/

/-- The columns ca, cu, avail and used of the rows (0,0), (12,12), (4,10), (0,10), (10,4), (5,4), (13,1), (1,0). -/
theorem test_query_table :
    [(0, 0), (12, 12), (4, 10), (0, 10), (10, 4), (5, 4), (13, 1), (1, 0)].map
      (fun x => (contigAvail (cfg16 false) x.1 x.2, contigUsed (cfg16 false) x.1 x.2, avail (cfg16 false) x.1 x.2,
        used (cfg16 false) x.1 x.2)) =
    [(15, 0, 15, 0), (4, 0, 15, 0), (6, 6, 9, 6), (5, 10, 5, 10), (5, 6, 5, 10), (0, 11, 0, 15), (11, 3, 11, 4), (0, 15, 0, 15)] := by
  decide

theorem test_contig_space_available :
    seen (exec (.contigSpaceAvailable .producer) (ring false 4 10 [])) =
      some (some 0x0000000A000000040000000600000000#128, 4, 10) := by decide

theorem test_contig_space_used :
    seen (exec (.contigSpaceUsed .consumer) (ring false 10 4 [])) =
      some (some 0x000000040000000A0000000600000000#128, 10, 4) := by decide

theorem test_space_available :
    seen (exec (.spaceAvailable .control) (ring false 10 4 [])) =
      some (some 0x000000040000000A0000000500000000#128, 10, 4) := by decide

theorem test_space_used :
    seen (exec (.spaceUsed .consumer) (ring false 13 1 [])) =
      some (some 0x000000010000000D0000000400000000#128, 13, 1) := by decide

/-! ## GET_STATE and INIT -/

/-- S1, S2, S3, S4. -/
theorem test_get_state :
    seen (exec (.getState .control) (ring false 0 12 [])) = some (some 0x0000000C000000000004000200000000#128, 0, 12) ∧
    seen (exec (.getState .consumer) { ring false 4 10 [] with err := 0x21#32 }) =
      some (some 0x0000000A000000040004210100000000#128, 4, 10) ∧
    seen (exec (.getState .producer) (ring true 0 0 [])) = some (some 0x00000000000000000104000000000000#128, 0, 0) ∧
    seen (exec (.getState .control) State.reset) = some (some 0x00000000000000000010000000000000#128, 0, 0) := by decide

/-- S5: INIT clears ERR and storage and keeps the fault record. -/
theorem test_init :
    seen (exec .init { ring false 4 10 [(4, 0#8)] with err := 1#32 }) = some (some 0x00000000000000000000000000000000#128, 0, 0) ∧
    left (exec .init { ring false 4 10 [(4, 0#8)] with
      err := 1#32, faults := { FaultRecord.empty with writeOverrun := true } }) =
      some ([], 0#32, { FaultRecord.empty with writeOverrun := true }) := by decide

/-! ## Steps -/

/-- E8 and E12 through `step`: an illegal command responds ERROR, sets ILL and changes no index. -/
theorem test_step_illegal :
    seen (step (serving (ring false 4 10 []) .producer 0x6#64)) = some (some 0x0000000A000000040000000000000003#128, 4, 10) ∧
    left (step (serving (ring true 4 10 []) .producer 0xA#64)) =
      some ([], 0x20#32, { FaultRecord.empty with illegalCommand := true }) := by decide

/-- The first step after reset runs a presented word: PUSH_WORD 0. -/
theorem test_fetch_word_after_reset :
    seen (step (State.reset.withFetchWord 32 0x1)) = some (some 0x00000004000000000000000000000000#128, 0, 4) := by decide

theorem test_decode_table_word : decodeTableWord 32 0x1 = some (.pushWord 0#32) := by decide

/-! ## Witnesses: for every statement with hypotheses, values that meet them all -/

theorem witness_EncodeOfDecode : decode .producer 0x0000000C0000AB05#64 = .ok (.storageWrite 12#32 0xAB#8) := rfl

theorem witness_DecoderAcceptsExactlyLegalCommands :
    (cfg16 true).hasPopWord = true ∧ ¬ illegalByR66 (cfg16 true) .consumer 0xA#64 ∧
    illegalByR66 (cfg16 true) .producer 0xA#64 := by
  refine ⟨rfl, ?_, ?_⟩ <;> unfold illegalByR66 <;> decide

theorem witness_DecoderAgreesWithOpcodeTable :
    ∃ row ∈ opcodeTable, row.covers .producer 0xFFFFFFFF0000FF05#64 = true := by decide

theorem witness_AssembledWordsDecode :
    asmWord .storageWrite [0xFFFFFFFF, 0xFF] = .ok 0xFFFFFFFF0000FF05#64 ∧ Opcode.storageWrite.permits .producer = true :=
  ⟨rfl, rfl⟩

theorem witness_AssemblerRefusesWideOperands :
    Opcode.pushWord.usesArg = true ∧ Opcode.pushWord.usesBdata = false ∧
    asmWord .pushWord [0xFFFFFFFF] = .ok 0xFFFFFFFF00000001#64 ∧ asmWord .pushWord [0x100000000] = .error .operandTooWide :=
  ⟨rfl, rfl, rfl, rfl⟩

theorem witness_StepRunsDecodedCommand :
    (serving (ring true 0 8 twoWords) .consumer 0xA#64).events = [.serve .consumer] ∧
    (serving (ring true 0 8 twoWords) .consumer 0xA#64).outstanding.get .consumer = some 0xA#64 ∧
    decode .consumer 0xA#64 = .ok .popWord := ⟨rfl, rfl, rfl⟩

/-- One word for each condition of R66, and a legal one. -/
theorem witness_LegalityDecidesStep :
    (serving (ring false 4 10 []) .consumer 0xA#64).events = [.serve .consumer] ∧
    (serving (ring false 4 10 []) .consumer 0xA#64).outstanding.get .consumer = some 0xA#64 ∧
    illegalByR66 (cfg16 false) .consumer 0xA#64 ∧ ¬ illegalByR66 (cfg16 true) .consumer 0xA#64 ∧
    illegalByR66 (cfg16 true) .producer 0xC#64 ∧
    illegalByR66 (cfg16 true) .producer 0x11#64 ∧ illegalByR66 (cfg16 true) .producer 0x10003#64 ∧
    illegalByR66 (cfg16 true) .producer 0x1122334400000101#64 ∧ illegalByR66 (cfg16 true) .producer 0x100000003#64 ∧
    illegalByR66 (cfg16 true) .consumer 0x2#64 ∧ illegalByR66 (cfg16 true) .producer 0x6#64 ∧
    illegalByR66 (cfg16 true) .producer 0x0#64 := by
  refine ⟨rfl, rfl, ?_, ?_, ?_, ?_, ?_, ?_, ?_, ?_, ?_, ?_⟩ <;> unfold illegalByR66 <;> decide

theorem witness_IssueMakesCommandOutstanding :
    ({ ring false 0 0 [] with events := [.issue .producer 0x1#64] } : State).outstanding.get .producer = none ∧
    (serving (ring false 0 0 []) .producer 0x1#64).outstanding.get .producer ≠ none := by decide

theorem witness_ServedCommandCompletes :
    (serving State.reset .control 0xF#64).events = [.serve .control] := rfl

theorem witness_OneResponsePerCommand :
    (after (step (serving State.reset .control 0xF#64))).isSome = true ∧
    (after (step { State.reset with events := [.reset] })).isSome = true := by decide

theorem witness_HardwareResetEvent :
    ({ serving (ring false 4 10 []) .producer 0x1#64 with events := [.reset] } : State).events = [.reset] := rfl

theorem witness_StepKeepsInvariant :
    (serving (ring false 8 13 []) .producer 0xAABBCCDD00000001#64).Inv ∧
    (after (step (serving (ring false 8 13 []) .producer 0xAABBCCDD00000001#64))).isSome = true := by decide

/-- With unequal indices, and with equal non-zero ones after an overrun (W6). -/
theorem witness_EqualNonzeroIndicesNeedWriteOverrun :
    (serving (ring false 10 4 []) .producer 0x0000000600000002#64).Inv ∧ (ring false 10 4 []).ridx ≠ (ring false 10 4 []).widx ∧
    (after (step (serving (ring false 10 4 []) .producer 0x0000000600000002#64))).isSome = true ∧
    ({ ring false 10 10 [] with faults := { FaultRecord.empty with writeOverrun := true } } : State).Inv ∧
    ({ FaultRecord.empty with writeOverrun := true } : FaultRecord).has .writeOverrun = true := by decide

theorem witness_ParametersNeverChange : (after (step (serving (ring true 0 8 []) .control 0x0#64))).isSome = true := by decide

theorem witness_FaultRecordOnlyGrows :
    (after (step (serving { State.reset with faults := { FaultRecord.empty with readOverrun := true } } .control 0x0#64))).isSome = true ∧
    ({ FaultRecord.empty with readOverrun := true } : FaultRecord).has .readOverrun = true := by decide

theorem witness_ErrorBitsAreSticky :
    (after (step (serving { State.reset with err := 0x20#32 } .producer 0x0#64))).isSome = true ∧
    (0x20#32).getLsbD 5 = true ∧
    (serving { State.reset with err := 0x20#32 } .producer 0x0#64).events = [.serve .producer] := by decide

/-- An ERROR with its bit, an OK, and an OK with UNWRITTEN_READ. -/
theorem witness_OneConditionPerCommand :
    (after (exec (.storageRead 16#32) (ring false 4 10 []))).isSome = true ∧
    (after (exec (.storageRead 4#32) (ring false 4 10 [(4, 0x5A#8)]))).isSome = true ∧
    (after (exec (.storageRead 5#32) (ring false 4 10 []))).isSome = true := by decide

theorem witness_FullAndNodataHaveOneSource :
    ((after (step (serving (ring true 0 12 []) .producer 0x1#64))).map fun t => t.replies.map Reply.status) = some [.full] ∧
    ((after (step (serving (ring true 0 2 []) .consumer 0xA#64))).map fun t => t.replies.map Reply.status) = some [.nodata] := by
  decide

/-- Empty; three free bytes; four free bytes. -/
theorem witness_PushWordResult :
    (ring false 12 12 []).Inv ∧ (ring false 0 12 []).Inv ∧ 16 - 1 - (12 + 16 - 0) % 16 < 4 ∧
    (ring false 3 14 []).Inv ∧ ¬ 16 - 1 - (14 + 16 - 3) % 16 < 4 := by decide

/-- The three unaligned positions of `widx`. -/
theorem witness_PushWordSplit :
    ∀ w ∈ [13, 14, 15], (ring false 8 w []).Inv ∧ (ring false 8 w []).ridx ≠ (ring false 8 w []).widx ∧
      (ring false 8 w []).cfg.cap - 4 < (ring false 8 w []).widx ∧
      4 ≤ (ring false 8 w []).cfg.cap - 1 -
        ((ring false 8 w []).widx + (ring false 8 w []).cfg.cap - (ring false 8 w []).ridx) % (ring false 8 w []).cfg.cap := by decide

theorem witness_FullTestAgreesWithReference :
    (0 < (cfg16 false).cap ∧ 12 < (cfg16 false).cap ∧ 0 ≠ 12 ∧ 0 % 4 = 12 % 4 ∧ avail (cfg16 false) 0 12 < 4) ∧
    ¬ avail (cfg16 false) 4 12 < 4 ∧
    ((ring false 4 12 []).Inv ∧ (8#32).toNat % 4 = 0 ∧ (after (exec (.registerReads 8#32) (ring false 4 12 []))).isSome = true) := by
  decide

theorem witness_PushKeepsUnreadBytes :
    (ring false 8 13 []).Inv ∧ (ring false 8 13 []).isLive 8 = true ∧ (ring false 0 0 []).Inv ∧ (ring false 5 4 []).Inv := by decide

/-- No POP_WORD; three live bytes; four written ones (draining); four of which one has no value. -/
theorem witness_PopWordResult :
    (ring false 0 8 twoWords).Inv ∧ (ring true 0 3 twoWords).Inv ∧ (3 + 16 - 0) % 16 < 4 ∧
    (ring true 4 8 twoWords).Inv ∧ ¬ (8 + 16 - 4) % 16 < 4 ∧
    (∀ k, k < 4 → (ring true 4 8 twoWords).byteAt ((4 + k) % 16) = some ([0xD4#8, 0xC3#8, 0xB2#8, 0xA1#8].getD k 0#8)) ∧
    (ring true 6 10 twoWords).Inv ∧ (ring true 6 10 twoWords).byteAt ((6 + 2) % 16) = none := by decide

/-- Offsets `CAP - 1` and `CAP`; the first live byte, the first byte that is not live; a live byte without a value. -/
theorem witness_StorageReadResult :
    (ring false 4 10 [(4, 0x5A#8)]).Inv ∧ (ring false 4 10 []).cfg.cap = 16 ∧
    (10 + 16 - 4) % 16 ≤ (15 + 16 - 4) % 16 ∧ (10 + 16 - 4) % 16 ≤ (10 + 16 - 4) % 16 ∧
    ¬ (10 + 16 - 4) % 16 ≤ (4 + 16 - 4) % 16 ∧ ¬ (10 + 16 - 4) % 16 ≤ (9 + 16 - 4) % 16 ∧
    (ring false 4 10 []).isLive 4 = true ∧ (Instr.storageWrite 5#32 0#8).port = .producer ∧
    (after (exec (.storageWrite 5#32 0#8) (ring false 4 10 []))).isSome = true ∧
    (ring false 4 10 [(4, 0x5A#8)]).byteAt 4 = some 0x5A#8 ∧ (ring false 4 10 [(4, 0x5A#8)]).byteAt 9 = none := by decide

/-- The bound and one above it in each branch of `contig_avail`. -/
theorem witness_RegisterWritesResult :
    (ring false 0 10 []).Inv ∧ ¬ 16 - 1 - 10 < 5 ∧ 16 - 1 - 10 < 6 ∧
    (ring false 4 10 []).Inv ∧ ¬ 16 - 10 < 6 ∧ 16 - 10 < 7 ∧ (ring false 10 4 []).Inv ∧ ¬ 10 - 4 - 1 < 5 ∧ 10 - 4 - 1 < 6 := by
  decide

theorem witness_StorageWriteResult :
    (ring false 4 10 []).Inv ∧ (ring false 4 10 []).cfg.cap ≤ 16 ∧
    (4 + 16 - 4) % 16 < (10 + 16 - 4) % 16 ∧ (9 + 16 - 4) % 16 < (10 + 16 - 4) % 16 ∧
    ¬ (10 + 16 - 4) % 16 < (10 + 16 - 4) % 16 ∧ ¬ (3 + 16 - 4) % 16 < (10 + 16 - 4) % 16 := by decide

/-- The bound and one above it in each branch of `contig_used`; landing on `widx` and beside it. -/
theorem witness_RegisterReadsResult :
    (ring false 4 10 []).Inv ∧ ¬ 10 - 4 < 6 ∧ 10 - 4 < 7 ∧ (ring false 10 4 []).Inv ∧ ¬ 16 - 10 < 6 ∧ 16 - 10 < 7 ∧
    (4 + 6) % 16 = 10 ∧ (4 + 5) % 16 ≠ 10 := by decide

theorem witness_ContigSpaceAvailableResult :
    (ring false 0 10 []).Inv ∧ (ring false 4 10 []).Inv ∧ (ring false 12 12 []).Inv ∧ (ring false 5 4 []).Inv := by decide

theorem witness_ContigSpaceUsedResult : (ring false 4 10 []).Inv ∧ (ring false 10 4 []).Inv := by decide

theorem witness_SpaceAvailableResult : (ring false 0 0 []).Inv ∧ (ring false 5 4 []).Inv := by decide

theorem witness_SpaceUsedResult : (ring false 0 15 []).Inv ∧ (ring false 13 1 []).Inv := by decide

theorem witness_GetStateResult : (ring false 0 0 []).Inv ∧ (ring false 0 11 []).Inv ∧ (ring true 0 12 []).Inv := by decide

theorem witness_QueriesAreIdempotent :
    (Instr.getState .control).opcode ∈ [Opcode.contigSpaceAvailable, .contigSpaceUsed, .spaceAvailable, .spaceUsed, .getState] ∧
    (after (exec (.getState .control) (ring false 4 10 []))).isSome = true := by decide

theorem witness_OnlyThreeCommandsWriteStorage :
    (after (exec .popWord (ring true 0 8 twoWords))).isSome = true ∧
    Instr.popWord.opcode ∉ [Opcode.pushWord, .storageWrite, .init] := by decide

/-- Each way an index changes: an advance, an empty reset of the other side's index, and INIT. -/
theorem witness_SingleWriterPerIndex :
    ((after (exec (.registerWrites 6#32) (ring false 4 10 []))).map fun t => (t.ridx, t.widx)) = some (4, 0) ∧
    ((after (exec (.registerReads 6#32) (ring false 4 10 []))).map fun t => (t.ridx, t.widx)) = some (0, 0) ∧
    ((after (exec (.pushWord 0#32) (ring false 12 12 []))).map fun t => (t.ridx, t.widx)) = some (0, 4) ∧
    ((after (exec .init (ring false 4 10 []))).map fun t => (t.ridx, t.widx)) = some (0, 0) := by decide

/-- Indices for the accounting laws, the extreme ones among them. -/
theorem witness_CapacityConservation : 15 < (cfg16 false).cap ∧ 0 < (cfg16 false).cap := by decide

theorem witness_ContigAvailIsBounded :
    4 < (cfg16 false).cap ∧ contigAvail (cfg16 false) 0 10 = 5 ∧ contigAvail (cfg16 false) 4 10 = 6 ∧
    contigAvail (cfg16 false) 5 4 = 0 := by decide

theorem witness_ContigUsedIsBounded :
    10 < (cfg16 false).cap ∧ contigUsed (cfg16 false) 4 10 = 6 ∧ contigUsed (cfg16 false) 10 4 = 6 := by decide

theorem witness_EmptyDisambiguation : 12 < (cfg16 false).cap ∧ occ (cfg16 false) 12 12 = .empty := by decide

/-- The bound itself, in each law: a full commit that does not look empty, and a draining read. -/
theorem witness_CommitBoundLaw :
    4 < (cfg16 false).cap ∧ 10 < (cfg16 false).cap ∧ 6 ≤ contigAvail (cfg16 false) 4 10 ∧ adv (cfg16 false) 10 6 ≠ 4 ∧
    0 ≤ contigAvail (cfg16 false) 12 12 ∧ adv (cfg16 false) 12 0 = 12 ∧
    6 ≤ contigUsed (cfg16 false) 4 10 ∧ adv (cfg16 false) 4 6 = 10 := by decide

theorem witness_ReservedSlotIsNeverLive : 0 < (cfg16 false).cap ∧ 15 < (cfg16 false).cap := by decide

theorem witness_FullOutputPredictsPush :
    (ring false 0 12 []).Inv ∧ (ring false 0 12 []).fullO = true ∧ (ring false 3 14 []).Inv ∧ (ring false 3 14 []).fullO = false ∧
    (ring false 0 0 []).emptyO = true := by decide

/-- Every occupancy state as a start, with contracts met at their bounds. -/
theorem witness_OccupancyTransitions :
    (ring true 0 0 []).Inv ∧ occ (cfg16 true) 0 0 = .empty ∧ (ring true 4 10 []).Inv ∧ occ (cfg16 true) 4 10 = .partly ∧
    (ring true 0 12 []).Inv ∧ occ (cfg16 true) 0 12 = .full ∧ (3#32).toNat ≤ contigAvail (cfg16 true) 0 12 ∧
    (12#32).toNat ≤ contigUsed (cfg16 true) 0 12 ∧ (after (exec (.registerReads 12#32) (ring true 0 12 []))).isSome = true := by
  decide

theorem witness_FullToEmptyInOneCommand :
    (ring true 0 12 twoWords).Inv ∧ 16 ≤ (ring true 0 12 twoWords).cfg.cap ∧ occ (cfg16 true) 0 12 = .full ∧
    (after (exec .popWord (ring true 0 12 twoWords))).isSome = true := by decide

theorem witness_ProducerCommandsAppend :
    (ring false 8 13 []).Inv ∧ (3#32).toNat ≤ contigAvail (cfg16 false) 8 13 ∧
    (after (exec (.registerWrites 3#32) (ring false 8 13 []))).isSome = true ∧
    (after (exec (.pushWord 0#32) (ring false 8 13 []))).isSome = true := by decide

theorem witness_ConsumerCommandsTakeFromFront :
    (ring true 0 8 twoWords).Inv ∧ (8#32).toNat ≤ contigUsed (cfg16 true) 0 8 ∧
    (after (exec (.registerReads 8#32) (ring true 0 8 twoWords))).isSome = true ∧
    (ring true 0 8 twoWords).contents.take 4 = [some 0x44#8, some 0x33#8, some 0x22#8, some 0x11#8] ∧
    (after (exec .popWord (ring true 0 8 twoWords))).isSome = true ∧
    (ring true 0 3 twoWords).Inv ∧ (ring true 0 3 twoWords).contents.length < 4 := by decide

theorem witness_PushedWordReadsBack :
    (ring false 8 13 []).Inv ∧ 4 ≤ avail (cfg16 false) 8 13 ∧ (ring false 12 12 []).Inv := by decide

theorem witness_FreeBytesAreUnobservable :
    (ring true 0 4 twoWords).Inv ∧ (ring true 0 4 (twoWords.take 4)).Inv ∧
    (ring true 0 4 twoWords).sameButFreeBytes (ring true 0 4 (twoWords.take 4)) ∧
    (after (exec .popWord (ring true 0 4 twoWords))).isSome = true := by
  refine ⟨by decide, by decide, ?_, by decide⟩
  unfold State.sameButFreeBytes
  decide

theorem witness_LiveBytesStayWritten :
    (ring true 0 8 twoWords).Inv ∧ (ring true 0 8 twoWords).liveBytesWritten ∧ Instr.popWord.opcode ≠ .registerWrites ∧
    (after (exec .popWord (ring true 0 8 twoWords))).isSome = true ∧ (8#32).toNat ≤ contigUsed (cfg16 true) 0 8 := by
  refine ⟨by decide, ?_, by decide, by decide, by decide⟩
  unfold State.liveBytesWritten
  decide

/-- The trace of R176: from (8, 12), with the largest commit a producer may make after it. -/
theorem witness_CommitRaceIsSilent :
    (ring false 8 12 []).Inv ∧ (4#32).toNat = (ring false 8 12 []).usedBytes ∧ (4#32).toNat ≤ contigUsed (cfg16 false) 8 12 ∧
    (15#32).toNat ≤ (cfg16 false).effCap := by decide

theorem witness_FreeSpaceViewStaysValid :
    (ring false 10 4 []).Inv ∧ (Instr.registerReads 6#32).opcode ∈ [Opcode.registerReads, .popWord, .storageRead] ∧
    (6#32).toNat ≤ contigUsed (cfg16 false) 10 4 ∧
    ((after (exec (.registerReads 6#32) (ring false 10 4 []))).map fun t => t.widx) = some 4 := by decide

theorem witness_ConsumerRegionStaysValid :
    (ring false 8 13 twoWords).Inv ∧ (ring false 8 13 twoWords).ridx ≠ (ring false 8 13 twoWords).widx ∧
    (Instr.pushWord 0#32).opcode ∈ [Opcode.pushWord, .registerWrites, .storageWrite] ∧
    (3#32).toNat ≤ contigAvail (cfg16 false) 8 13 ∧
    (after (exec (.pushWord 0#32) (ring false 8 13 twoWords))).isSome = true := by decide

end Sys2Proof.Tests
end

/-! # Proofs of the family 10_state: occupancy accounting -/

namespace Sys2Proof.Machine

section
variable (c : Config)

/-- R27: the two counts add up to the effective capacity. -/
theorem used_add_avail {r w : Nat} (hr : r < c.cap) (hw : w < c.cap) : used c r w + avail c r w = c.effCap := by
  have hu := used_lt c hr hw
  unfold avail
  rw [Config.effCap_eq]
  omega

/-- `avail` in closed form. -/
theorem avail_eq {r w : Nat} (hr : r < c.cap) (hw : w < c.cap) :
    avail c r w = if r ≤ w then c.cap - 1 - (w - r) else r - w - 1 := by
  unfold avail
  rw [used_eq c hr hw, Config.effCap_eq]
  split_ifs <;> omega

theorem contigAvail_le_avail {r w : Nat} (hr : r < c.cap) (hw : w < c.cap) : contigAvail c r w ≤ avail c r w := by
  unfold contigAvail
  rw [avail_eq c hr hw, Config.effCap_eq]
  split_ifs <;> omega

theorem contigUsed_le_used {r w : Nat} (hr : r < c.cap) (hw : w < c.cap) : contigUsed c r w ≤ used c r w := by
  unfold contigUsed
  rw [used_eq c hr hw]
  split_ifs <;> omega

/-- R29: the live bytes lie in one piece when `w >= r`. -/
theorem contigUsed_eq_used {r w : Nat} (hr : r < c.cap) (hw : w < c.cap) (h : r ≤ w) :
    contigUsed c r w = used c r w := by
  rw [used_eq c hr hw, contigUsed, if_pos h, if_pos h]

theorem used_eq_zero_iff {r w : Nat} (hr : r < c.cap) (hw : w < c.cap) : used c r w = 0 ↔ r = w := by
  rw [used_eq c hr hw]
  split_ifs <;> omega

/-- An advance by less than `CAP` stays in place only when it is by 0. -/
theorem adv_eq_self_iff {i n : Nat} (hi : i < c.cap) (hn : n < c.cap) : adv c i n = i ↔ n = 0 := by
  rw [adv_eq c hi hn.le]
  split_ifs <;> omega

/-- The read index meets the write index exactly after `used(r, w)` bytes. -/
theorem adv_eq_widx_iff {r w n : Nat} (hr : r < c.cap) (hw : w < c.cap) (hn : n < c.cap) :
    adv c r n = w ↔ n = used c r w := by
  rw [adv_eq c hr hn.le, used_eq c hr hw]
  split_ifs <;> omega

/-- A commit that fits `avail` keeps the write index off a read index that it was not on: the one byte
kept in reserve stands between them. -/
theorem adv_ne_ridx {r w n : Nat} (hr : r < c.cap) (hw : w < c.cap) (hne : r ≠ w) (hn : n ≤ avail c r w) :
    adv c w n ≠ r := by
  rw [avail_eq c hr hw] at hn
  rw [adv_eq c hw (by split_ifs at hn <;> omega)]
  split_ifs at hn ⊢ <;> omega

theorem occ_eq_empty_iff (r w : Nat) : occ c r w = .empty ↔ r = w := by
  unfold occ
  split_ifs with h1 h2 <;> simp [h1]

theorem occ_eq_full_iff (r w : Nat) : occ c r w = .full ↔ r ≠ w ∧ avail c r w < 4 := by
  unfold occ
  split_ifs with h1 h2
  · simp [h1]
  · simp [h1, h2]
  · simp [h2]

/-- The offset the write index points to is free, in every state of the indices. -/
theorem live_widx (r w : Nat) : live c r w w = false := decide_eq_false (lt_irrefl _)

end

/-- Settles O42. -/
theorem capacityConservation : Obligations.CapacityConservation := by
  intro c r w hr hw
  have hsum : used c r w + avail c r w = c.cap - 1 := used_add_avail c hr hw
  exact ⟨hsum, by omega⟩

/-- Settles O43: the branches hold on integers because the reserved byte makes every difference non-negative. -/
theorem contigAvailIsBounded : Obligations.ContigAvailIsBounded := by
  intro c r w hr hw
  refine ⟨?_, contigAvail_le_avail c hr hw⟩
  unfold contigAvail
  rw [Config.effCap_eq]
  split_ifs <;> omega

/-- Settles O44. -/
theorem contigUsedIsBounded : Obligations.ContigUsedIsBounded := by
  intro c r w hr hw
  refine ⟨?_, contigUsed_le_used c hr hw, contigUsed_eq_used c hr hw⟩
  unfold contigUsed
  split_ifs <;> omega

/-- Settles O45: the offset `w` is the one that is not live. -/
theorem emptyDisambiguation : Obligations.EmptyDisambiguation := by
  intro c r w hr hw
  exact ⟨used_eq_zero_iff c hr hw, (occ_eq_empty_iff c r w).symm, Nat.le_pred_of_lt (used_lt c hr hw),
    w, hw, live_widx c r w⟩

/-- Settles O46: from a non-empty buffer a commit inside its bound stops short of `r`; from an empty one it comes back
to `r` only when it is by 0. -/
theorem commitBoundLaw : Obligations.CommitBoundLaw := by
  intro c r w n hr hw
  have hsum := used_add_avail c hr hw
  rw [Config.effCap_eq] at hsum
  constructor
  · intro hn hadv
    have hna : n ≤ avail c r w := hn.trans (contigAvail_le_avail c hr hw)
    have hrw : r = w := by_contra fun hne => adv_ne_ridx c hr hw hne hna hadv
    subst hrw
    exact ⟨(adv_eq_self_iff c hr (by omega)).1 hadv, rfl⟩
  · intro hn
    have hnu : n ≤ used c r w := hn.trans (contigUsed_le_used c hr hw)
    exact adv_eq_widx_iff c hr hw (hnu.trans_lt (used_lt c hr hw))

end Sys2Proof.Machine

/-! # Proofs of the family 10_state: what one instruction does to storage and ERR -/

namespace Sys2Proof.Machine

/-- The response FULL of PUSH_WORD, with nothing else changed, stands for the one case of a non-empty buffer with fewer
than 4 free bytes (R80). -/
theorem execPushWord_eq_full_iff (v : Word) (s : State) :
    execPushWord v s = .next (s.plusReply .producer .full 0#32) ↔
      s.ridx ≠ s.widx ∧ avail s.cfg s.ridx s.widx < 4 := by
  constructor
  · intro h
    rcases execPushWord_cases v s with ⟨_, he⟩ | ⟨hne, hlt, _⟩ | ⟨_, _, he⟩
    · have hr := congrArg State.replies (Host.Outcome.next.inj (he.symm.trans h))
      simp [State.plusReply] at hr
    · exact ⟨hne, hlt⟩
    · have hr := congrArg State.replies (Host.Outcome.next.inj (he.symm.trans h))
      simp [State.plusReply] at hr
  · rintro ⟨hne, hlt⟩
    rw [execPushWord, if_neg hne, if_pos hlt]
    rfl

/-- Settles O48: FULL_O is the very test PUSH_WORD makes. -/
theorem fullOutputPredictsPush : Obligations.FullOutputPredictsPush := by
  intro s v _
  have hfull : s.fullO = true ↔ s.ridx ≠ s.widx ∧ avail s.cfg s.ridx s.widx < 4 := by
    rw [State.fullO, decide_eq_true_iff, occ_eq_full_iff]
  have hempty : s.emptyO = true ↔ s.ridx = s.widx := by
    rw [State.emptyO, decide_eq_true_iff, occ_eq_empty_iff]
  exact ⟨hfull.trans (execPushWord_eq_full_iff v s).symm, hempty, fun ⟨he, hf⟩ => (hfull.1 hf).1 (hempty.1 he)⟩

/-- Settles O40: no case of the other nine instructions writes storage. -/
theorem onlyThreeCommandsWriteStorage : Obligations.OnlyThreeCommandsWriteStorage := by
  intro i s t h hop
  cases i with
  | init => simp [Instr.opcode] at hop
  | pushWord v => simp [Instr.opcode] at hop
  | storageWrite a b => simp [Instr.opcode] at hop
  | contigSpaceAvailable p | spaceAvailable p | contigSpaceUsed p | spaceUsed p | getState p => cases h; rfl
  | registerWrites n =>
    rcases execRegisterWrites_cases n s with ⟨_, he⟩ | ⟨_, he⟩ <;> cases he.symm.trans h <;> simp
  | registerReads n =>
    rcases execRegisterReads_cases n s with ⟨_, he⟩ | ⟨_, he⟩ <;> cases he.symm.trans h <;> simp
  | storageRead a =>
    rcases execStorageRead_cases a s with ⟨_, he⟩ | ⟨_, _, he⟩ | ⟨_, _, _, _, he⟩ | ⟨_, _, _, he⟩ <;>
      cases he.symm.trans h <;> simp
  | popWord =>
    rcases execPopWord_cases s with ⟨_, he⟩ | ⟨_, _, he⟩ | ⟨_, _, _, _, he⟩ | ⟨_, _, _, he⟩ <;>
      cases he.symm.trans h <;> simp

/-- What an instruction other than INIT does to ERR: nothing, or it sets one bit (R24). -/
theorem exec_err {i : Instr} {s t : State} (h : exec i s = .next t) (hi : i ≠ .init) :
    t.err = s.err ∨ ∃ b, t.err = errWith s.err b := by
  cases i with
  | init => exact absurd rfl hi
  | contigSpaceAvailable p | spaceAvailable p | contigSpaceUsed p | spaceUsed p | getState p => cases h; exact .inl rfl
  | pushWord v =>
    rcases execPushWord_cases v s with ⟨_, he⟩ | ⟨_, _, he⟩ | ⟨_, _, he⟩ <;> cases he.symm.trans h <;> exact .inl rfl
  | storageWrite a b =>
    rcases execStorageWrite_cases a b s with ⟨_, he⟩ | ⟨_, _, he⟩ | ⟨_, _, he⟩ <;> cases he.symm.trans h
    · exact .inr ⟨.oor, rfl⟩
    · exact .inr ⟨.swlive, rfl⟩
    · exact .inl rfl
  | registerWrites n =>
    rcases execRegisterWrites_cases n s with ⟨_, he⟩ | ⟨_, he⟩ <;> cases he.symm.trans h
    · exact .inr ⟨.wovr, rfl⟩
    · exact .inl rfl
  | registerReads n =>
    rcases execRegisterReads_cases n s with ⟨_, he⟩ | ⟨_, he⟩ <;> cases he.symm.trans h
    · exact .inr ⟨.rovr, by simp⟩
    · exact .inl (by simp)
  | storageRead a =>
    rcases execStorageRead_cases a s with ⟨_, he⟩ | ⟨_, _, he⟩ | ⟨_, _, _, _, he⟩ | ⟨_, _, _, he⟩ <;>
      cases he.symm.trans h
    · exact .inr ⟨.oor, rfl⟩
    · exact .inr ⟨.srnl, rfl⟩
    · exact .inl rfl
    · exact .inl rfl
  | popWord =>
    rcases execPopWord_cases s with ⟨_, he⟩ | ⟨_, _, he⟩ | ⟨_, _, _, _, he⟩ | ⟨_, _, _, he⟩ <;>
      cases he.symm.trans h
    · exact .inr ⟨.ill, rfl⟩
    · exact .inl rfl
    · exact .inl (by simp)
    · exact .inl (by simp)

end Sys2Proof.Machine

/-! # Proofs of the family 10_state: a decoded word has no other spelling, and ERR is sticky -/

namespace Sys2Proof

theorem Opcode.bits_of_ofBits {b : BitVec 4} {o : Opcode} (h : Opcode.ofBits b = some o) : o.bits = b := by
  unfold Opcode.ofBits at h
  split at h <;> cases h <;> exact BitVec.eq_of_toNat_eq (by simp [Opcode.bits, *])

/-- What the decoder has checked of an accepted word, condition by condition (R66). -/
theorem decode_ok {p : Port} {w : CmdWord} {i : Instr} (h : decode p w = .ok i) :
    ∃ o, Opcode.ofBits (Cmd.op w) = some o ∧ Cmd.rsv0 w = 0#4 ∧ Cmd.rsv1 w = 0#16 ∧
      (o.usesBdata = false → Cmd.bdata w = 0#8) ∧ (o.usesArg = false → Cmd.arg w = 0#32) ∧
      o.permits p = true ∧ i = o.build p (Cmd.arg w) (Cmd.bdata w) := by
  unfold decode at h
  split at h
  · cases h
  · rename_i o ho
    split_ifs at h with hrsv hb ha hp
    obtain ⟨h0, h1⟩ := not_or.1 hrsv
    cases h
    exact ⟨o, ho, not_not.1 h0, not_not.1 h1, fun hu => not_not.1 fun hne => hb ⟨hu, hne⟩,
      fun hu => not_not.1 fun hne => ha ⟨hu, hne⟩, by simpa using hp, rfl⟩

/-- A word with reserved fields 0 is the one assembled from its other fields (R61). -/
theorem Cmd.assemble_fields {w : CmdWord} (h0 : Cmd.rsv0 w = 0#4) (h1 : Cmd.rsv1 w = 0#16) :
    Cmd.assemble (Cmd.op w) (Cmd.bdata w) (Cmd.arg w) = w := by
  refine BitVec.eq_of_getLsbD_eq fun j hj => ?_
  have hz0 := congrArg (BitVec.getLsbD · (j - 4)) h0
  have hz1 := congrArg (BitVec.getLsbD · (j - 16)) h1
  simp only [Cmd.rsv0, Cmd.rsv1, BitVec.getLsbD_extractLsb', BitVec.getLsbD_zero] at hz0 hz1
  rw [Laws.EncodedFields.getLsbD_assemble]
  simp only [Cmd.op, Cmd.bdata, Cmd.arg, BitVec.getLsbD_extractLsb']
  split_ifs with h4 h8 h16 h32
  · simp [h4]
  · rw [show 4 + (j - 4) = j by omega] at hz0
    simpa [show j - 4 < 4 by omega] using hz0.symm
  · simp [show j - 8 < 8 by omega, show 8 + (j - 8) = j by omega]
  · rw [show 16 + (j - 16) = j by omega] at hz1
    simpa [show j - 16 < 16 by omega] using hz1.symm
  · simp [show j - 32 < 32 by omega, show 32 + (j - 32) = j by omega]

/-- The instruction the decoder builds for a row has that row and the port, ARG and BDATA it was built from, as far as the
row uses them (R64, R65). -/
theorem Opcode.encode_build {o : Opcode} {p : Port} {arg : Word} {bdata : Byte} (hp : o.permits p = true)
    (hb : o.usesBdata = false → bdata = 0#8) (ha : o.usesArg = false → arg = 0#32) :
    encode (o.build p arg bdata) = (p, Cmd.assemble o.bits bdata arg) := by
  cases o <;>
    simp_all [Opcode.permits, Opcode.onlyPort, Opcode.usesBdata, Opcode.usesArg, Opcode.build, encode, Instr.port,
      Instr.opcode, Instr.bdata, Instr.arg]

/-- A decoded word is the encoding of what it decodes to (R66). -/
theorem encode_of_decode {p : Port} {w : CmdWord} {i : Instr} (h : decode p w = .ok i) : encode i = (p, w) := by
  obtain ⟨o, ho, h0, h1, hb, ha, hp, rfl⟩ := decode_ok h
  rw [Opcode.encode_build hp hb ha, Opcode.bits_of_ofBits ho, Cmd.assemble_fields h0 h1]

namespace Machine

/-- INIT is the word 0 on the CONTROL port and no other (R64, R66). -/
theorem decode_eq_init {p : Port} {w : CmdWord} (h : decode p w = .ok .init) : p = .control ∧ w = 0#64 := by
  have he : (Port.control, 0#64) = (p, w) := encode_of_decode h
  cases he
  exact ⟨rfl, rfl⟩

theorem getLsbD_errWith {e : BitVec 32} {k : Nat} (h : e.getLsbD k = true) (b : ErrBit) :
    (errWith e b).getLsbD k = true := by
  rw [errWith, BitVec.getLsbD_or, h, Bool.true_or]

/-- What running a command other than INIT's does to ERR, legal or not: nothing, or it sets one bit (R24, R66). -/
theorem runCommand_err {p : Port} {w : CmdWord} {s t : State} (h : runCommand p w s = .next t)
    (hw : ¬ (p = .control ∧ w = 0#64)) : t.err = s.err ∨ ∃ b, t.err = errWith s.err b := by
  unfold runCommand at h
  split at h
  · cases h
    exact .inr ⟨.ill, rfl⟩
  · rename_i i hi
    exact exec_err h fun hinit => hw (decode_eq_init (hinit ▸ hi))

/-- Settles O21, by the cases of a step: only a served command touches ERR, and one that is not INIT sets bits only. -/
theorem errorBitsAreSticky : Obligations.ErrorBitsAreSticky := by
  intro s t k h hk hreset hinit
  rcases step_cases s with ⟨_, he⟩ | ⟨p, w, es, _, he⟩ | ⟨p, es, _, _, he⟩ | ⟨p, w, es, hev, hout, he⟩ | ⟨es, hev, _⟩
  · cases he.symm.trans h
    exact hk
  · rcases issueCommand_cases p w (s.setEvents es) with ⟨_, hi⟩ | ⟨_, _, hi⟩
    · cases (he.trans hi).symm.trans h
      exact hk
    · cases (he.trans hi).symm.trans h
  · cases he.symm.trans h
    exact hk
  · have hw : ¬ (p = .control ∧ w = 0#64) := by
      rintro ⟨rfl, rfl⟩
      exact hinit es hev hout
    rcases runCommand_err (he.symm.trans h) hw with herr | ⟨b, herr⟩ <;> rw [herr]
    · exact hk
    · exact getLsbD_errWith hk b
  · exact absurd hev (hreset es)

end Machine
end Sys2Proof

/-! # Proofs of the family 10_state: free bytes are unobservable -/

namespace Sys2Proof.Machine

/-- Replacing the storage commutes with the advance of the read index. -/
theorem State.consume_setStor (s : State) (m : Memory) (n : Nat) :
    (s.setStor m).consume n = (s.consume n).setStor m := by
  unfold State.consume
  rw [apply_ite (State.setStor · m)]
  rfl

/-- MemRead of live bytes sees nothing but live bytes. -/
theorem memRead_congr_live (c : Config) {m m' : Memory} {r w n : Nat} (hr : r < c.cap) (hw : w < c.cap)
    (hn : n ≤ used c r w) (h : ∀ a, a < c.cap → live c r w a = true → m.read a = m'.read a) :
    memRead c m r n = memRead c m' r n := by
  refine List.map_congr_left fun k hk => h _ (adv_lt c r k) (live_adv c hr hw ?_)
  have := List.mem_range.1 hk
  omega

/-- The storages of `s` and `m` agree on the live bytes of `s`. -/
def State.agreesOnLive (s : State) (m : Memory) : Prop :=
  ∀ a, a < s.cfg.cap → s.isLive a = true → s.byteAt a = m.read a

/-- States that agree on all but free bytes differ in the storage alone, and there on free bytes alone. -/
theorem State.sameButFreeBytes_iff (s s' : State) :
    s.sameButFreeBytes s' ↔ s' = s.setStor s'.stor ∧ s.agreesOnLive s'.stor := by
  constructor
  · rintro ⟨hcfg, hr, hw, herr, hf, hout, hev, hrep, hd, hlive⟩
    refine ⟨?_, hlive⟩
    cases s'
    simp only at hcfg hr hw herr hf hout hev hrep hd
    subst hcfg hr hw herr hf hout hev hrep hd
    rfl
  · rintro ⟨he, hlive⟩
    rw [he]
    exact ⟨rfl, rfl, rfl, rfl, rfl, rfl, rfl, rfl, rfl, hlive⟩

section
variable {s : State}

/-! The reads that find a value, and those that find none, under the conditions for each. -/

theorem execPopWord_of_some {v : Word} (hp : s.cfg.hasPopWord = true) (hu : 4 ≤ used s.cfg s.ridx s.widx)
    (hv : wordOfRead (memRead s.cfg s.stor s.ridx 4) = some v) :
    execPopWord s = .next ((s.consume 4).reply .consumer .ok v) := by
  rw [execPopWord, if_neg (ne_false_of_eq_true hp), if_neg (not_lt.2 hu), hv]
  rfl

theorem execPopWord_of_none (hp : s.cfg.hasPopWord = true) (hu : 4 ≤ used s.cfg s.ridx s.widx)
    (hv : wordOfRead (memRead s.cfg s.stor s.ridx 4) = none) :
    execPopWord s = .next ((s.unwrittenRead.consume 4).reply .consumer .ok (Config.freeWord s.draws)) := by
  rw [execPopWord, if_neg (ne_false_of_eq_true hp), if_neg (not_lt.2 hu), hv]
  rfl

theorem execStorageRead_of_some {a : Word} {b : Byte} (ha : a.toNat < s.cfg.cap) (hl : s.isLive a.toNat = true)
    (hb : s.byteAt a.toNat = some b) : execStorageRead a s = .next (s.reply .consumer .ok (b.setWidth 32)) := by
  rw [State.isLive] at hl
  rw [execStorageRead, offsetOf, if_neg (not_le.2 ha), if_neg (ne_false_of_eq_true hl), hb]
  rfl

theorem execStorageRead_of_none {a : Word} (ha : a.toNat < s.cfg.cap) (hl : s.isLive a.toNat = true)
    (hb : s.byteAt a.toNat = none) :
    execStorageRead a s = .next (s.unwrittenRead.reply .consumer .ok (Config.freeWord s.draws)) := by
  rw [State.isLive] at hl
  rw [execStorageRead, offsetOf, if_neg (not_le.2 ha), if_neg (ne_false_of_eq_true hl), hb]
  rfl

end

section
variable {s t : State} (m : Memory)

/-! Each command, run on other storage: it answers the same state but for the storage. -/

theorem execPushWord_setStor {v : Word} (h : execPushWord v s = .next t) :
    ∃ m', execPushWord v (s.setStor m) = .next (t.setStor m') := by
  rcases execPushWord_cases v s with ⟨hc, he⟩ | ⟨hc, hlt, he⟩ | ⟨hc, hle, he⟩ <;> cases he.symm.trans h
  · exact ⟨memWrite s.cfg m 0 (bytesOf v), if_pos hc⟩
  · exact ⟨m, (if_neg hc).trans (if_pos hlt)⟩
  · exact ⟨memWrite s.cfg m s.widx (bytesOf v), (if_neg hc).trans (if_neg (not_lt.2 hle))⟩

theorem execStorageWrite_setStor {a : Word} {b : Byte} (h : execStorageWrite a b s = .next t) :
    ∃ m', execStorageWrite a b (s.setStor m) = .next (t.setStor m') := by
  rcases execStorageWrite_cases a b s with ⟨hc, he⟩ | ⟨hc, hl, he⟩ | ⟨hc, hl, he⟩ <;> cases he.symm.trans h
  · exact ⟨m, if_pos hc⟩
  · exact ⟨m, (if_neg (not_le.2 hc)).trans (if_pos hl)⟩
  · exact ⟨m.write a.toNat b, (if_neg (not_le.2 hc)).trans (if_neg (ne_true_of_eq_false hl))⟩

theorem execRegisterWrites_setStor {n : Word} (h : execRegisterWrites n s = .next t) :
    execRegisterWrites n (s.setStor m) = .next (t.setStor m) := by
  rcases execRegisterWrites_cases n s with ⟨hc, he⟩ | ⟨hc, he⟩ <;> cases he.symm.trans h
  · exact if_pos hc
  · exact if_neg (not_lt.2 hc)

theorem execRegisterReads_setStor {n : Word} (h : execRegisterReads n s = .next t) :
    execRegisterReads n (s.setStor m) = .next (t.setStor m) := by
  unfold execRegisterReads
  rw [State.consume_setStor]
  rcases execRegisterReads_cases n s with ⟨hc, he⟩ | ⟨hc, he⟩ <;> cases he.symm.trans h
  · exact if_pos hc
  · exact if_neg (not_lt.2 hc)

/-- POP_WORD reads four bytes, and only where all four are live. -/
theorem execPopWord_setStor (hr : s.ridx < s.cfg.cap) (hw : s.widx < s.cfg.cap) (hm : s.agreesOnLive m)
    (h : execPopWord s = .next t) : execPopWord (s.setStor m) = .next (t.setStor m) := by
  have hread (hu : 4 ≤ used s.cfg s.ridx s.widx) : memRead s.cfg s.stor s.ridx 4 = memRead s.cfg m s.ridx 4 :=
    memRead_congr_live s.cfg hr hw hu hm
  rcases execPopWord_cases s with ⟨hp, he⟩ | ⟨hp, hu, he⟩ | ⟨v, hp, hu, hv, he⟩ | ⟨hp, hu, hv, he⟩ <;>
    cases he.symm.trans h
  · exact if_pos hp
  · exact (if_neg (ne_false_of_eq_true hp)).trans (if_pos hu)
  · rw [hread hu] at hv
    rw [execPopWord_of_some (s := s.setStor m) hp hu hv, State.consume_setStor]
    rfl
  · rw [hread hu] at hv
    rw [execPopWord_of_none (s := s.setStor m) hp hu hv, State.consume_unwrittenRead, State.consume_unwrittenRead,
      State.consume_setStor]
    rfl

/-- STORAGE_READ reads its byte only where it is live. -/
theorem execStorageRead_setStor {a : Word} (hm : s.agreesOnLive m) (h : execStorageRead a s = .next t) :
    execStorageRead a (s.setStor m) = .next (t.setStor m) := by
  rcases execStorageRead_cases a s with ⟨ha, he⟩ | ⟨ha, hl, he⟩ | ⟨b, ha, hl, hb, he⟩ | ⟨ha, hl, hb, he⟩ <;>
    cases he.symm.trans h
  · exact if_pos ha
  · exact (if_neg (not_le.2 ha)).trans (if_pos hl)
  · rw [hm _ ha hl] at hb
    exact execStorageRead_of_some (s := s.setStor m) ha hl hb
  · rw [hm _ ha hl] at hb
    exact execStorageRead_of_none (s := s.setStor m) ha hl hb

end

/-- An instruction run on other storage with the same live bytes answers the same state but for the storage (R34). -/
theorem exec_setStor {i : Instr} {s t : State} (hs : s.Inv) {m : Memory} (hm : s.agreesOnLive m)
    (h : exec i s = .next t) : ∃ m', exec i (s.setStor m) = .next (t.setStor m') := by
  obtain ⟨hr, hw, -⟩ := hs
  cases i with
  | init => cases h; exact ⟨[], rfl⟩
  | contigSpaceAvailable p | spaceAvailable p | contigSpaceUsed p | spaceUsed p | getState p => cases h; exact ⟨m, rfl⟩
  | pushWord v => exact execPushWord_setStor m h
  | storageWrite a b => exact execStorageWrite_setStor m h
  | registerWrites n => exact ⟨m, execRegisterWrites_setStor m h⟩
  | registerReads n => exact ⟨m, execRegisterReads_setStor m h⟩
  | storageRead a => exact ⟨m, execStorageRead_setStor m hm h⟩
  | popWord => exact ⟨m, execPopWord_setStor m hr hw hm h⟩

/-- Settles O54: the other state is the first one on other storage, so the answers differ in the storage alone. -/
theorem freeBytesAreUnobservable : Obligations.FreeBytesAreUnobservable := by
  intro i s s' t hs _ hsame h
  obtain ⟨he, hm⟩ := (State.sameButFreeBytes_iff s s').1 hsame
  obtain ⟨m', h'⟩ := exec_setStor hs hm h
  exact ⟨t.setStor m', he ▸ h', rfl, rfl, rfl, rfl, rfl, rfl⟩

end Sys2Proof.Machine

/-! # Proofs of the family 20_memory: what is live around the two indices -/

namespace Sys2Proof.Machine

section
variable (c : Config)

/-- The distance from `r` undoes the advance from `r`. -/
theorem modDiff_adv {r k : Nat} (hr : r < c.cap) (hk : k < c.cap) : modDiff c (adv c r k) r = k := by
  rw [modDiff_eq c (adv_lt c r k) hr, adv_eq c hr hk.le]
  split_ifs <;> omega

/-- The offset `k` bytes past `r` is live exactly when `k` is below the count of live bytes (R26). -/
theorem live_adv_iff {r k : Nat} (w : Nat) (hr : r < c.cap) (hk : k < c.cap) :
    live c r w (adv c r k) = true ↔ k < used c r w := by
  rw [live, decide_eq_true_iff, modDiff_adv c hr hk]

/-- A commit of `n` bytes that fits `avail` makes the `n` offsets from `w` on live. -/
theorem live_adv_of_commit {r w n k : Nat} (hr : r < c.cap) (hw : w < c.cap) (hn : n ≤ avail c r w) (hk : k < n) :
    live c r (adv c w n) (adv c w k) = true := by
  rw [avail_eq c hr hw] at hn
  have hcap : n ≤ c.cap := by split_ifs at hn <;> omega
  rw [live_iff c hr (adv_lt c w n) (adv_lt c w k), adv_eq c hw hcap, adv_eq c hw (hk.le.trans hcap)]
  split_ifs at hn ⊢ <;> omega

end

/-- Settles O47: the byte before `r` is `CAP - 1` bytes past it, and no more than `CAP - 1` bytes are ever live. -/
theorem reservedSlotIsNeverLive : Obligations.ReservedSlotIsNeverLive := by
  intro c r w hr hw
  have h8 := c.eight_le_cap
  have hu := used_lt c hr hw
  have hadv : (r + c.cap - 1) % c.cap = adv c r (c.cap - 1) := by rw [adv, Nat.add_sub_assoc (by omega)]
  rw [hadv, ← Bool.not_eq_true, live_adv_iff c w hr (by omega)]
  omega

end Sys2Proof.Machine

/-! # Proofs of the family 20_memory: issuing and serving a command -/

namespace Sys2Proof.Machine

section
variable {s : State} {p : Port} {w : CmdWord} {es : List Event}

theorem step_of_issue (h : s.events = .issue p w :: es) : step s = issueCommand p w (s.setEvents es) := by
  rw [step, h]

theorem step_of_serve (h : s.events = .serve p :: es) (hw : s.outstanding.get p = some w) :
    step s = runCommand p w ((s.setEvents es).setOutstanding p none) := by
  rw [step, h]
  simp [serveCommand, hw]

theorem runCommand_of_decode {i : Instr} (h : decode p w = .ok i) : runCommand p w s = exec i s := by
  rw [runCommand, h]

end

/-- Settles O8. -/
theorem stepRunsDecodedCommand : Obligations.StepRunsDecodedCommand := by
  intro s p w i es hev hw hi
  exact (step_of_serve hev hw).trans (runCommand_of_decode hi)

/-- Settles O10, by the two cases of issuing. -/
theorem issueMakesCommandOutstanding : Obligations.IssueMakesCommandOutstanding := by
  intro s p w es hev
  rw [step_of_issue hev]
  rcases issueCommand_cases p w (s.setEvents es) with ⟨hidle, he⟩ | ⟨w', hbusy, he⟩
  · rw [State.setEvents_outstanding] at hidle
    refine ⟨fun _ => ⟨_, he, Ports.get_set_self _ p _, rfl, fun q hq => Ports.get_set_other _ p q _ hq, rfl⟩, fun h => ?_⟩
    exact absurd hidle h
  · rw [State.setEvents_outstanding] at hbusy
    exact ⟨fun h => absurd (hbusy.symm.trans h) (Option.some_ne_none w'), fun _ => he⟩

end Sys2Proof.Machine

/-! # Proofs of the family 20_memory: what one instruction does to the indices -/

namespace Sys2Proof.Machine

/-- An advance of the read index changes the write index only by resetting both (R90, R110). -/
theorem State.consume_widx_ne {s : State} {n : Nat} (h : (s.consume n).widx ≠ s.widx) :
    (s.consume n).ridx = 0 ∧ (s.consume n).widx = 0 := by
  rw [State.consume_widx] at h
  rw [State.consume_ridx, State.consume_widx]
  split_ifs at h ⊢
  · exact ⟨rfl, rfl⟩
  · exact absurd rfl h

/-- Everything an instruction can do to the two indices (R20, R21, R51). -/
theorem exec_indices {i : Instr} {s t : State} (h : exec i s = .next t) :
    (t.ridx = s.ridx ∧ t.widx = s.widx) ∨
    (i = .init ∧ t.ridx = 0 ∧ t.widx = 0) ∨
    (i.opcode = .pushWord ∧ s.ridx = s.widx ∧ t.ridx = 0 ∧ t.widx = 4) ∨
    (i.opcode ∈ [Opcode.pushWord, .registerWrites] ∧ t.ridx = s.ridx ∧ ∃ n, t.widx = adv s.cfg s.widx n) ∨
    (i.opcode ∈ [Opcode.registerReads, .popWord] ∧ ∃ n, t.ridx = (s.consume n).ridx ∧ t.widx = (s.consume n).widx) := by
  cases i with
  | init => cases h; exact .inr (.inl ⟨rfl, rfl, rfl⟩)
  | contigSpaceAvailable p | spaceAvailable p | contigSpaceUsed p | spaceUsed p | getState p =>
    cases h; exact .inl ⟨rfl, rfl⟩
  | pushWord v =>
    rcases execPushWord_cases v s with ⟨hc, he⟩ | ⟨_, _, he⟩ | ⟨_, _, he⟩ <;> cases he.symm.trans h
    · exact .inr (.inr (.inl ⟨rfl, hc, rfl, rfl⟩))
    · exact .inl ⟨rfl, rfl⟩
    · exact .inr (.inr (.inr (.inl ⟨by simp [Instr.opcode], rfl, 4, rfl⟩)))
  | registerWrites n =>
    refine .inr (.inr (.inr (.inl ⟨by simp [Instr.opcode], ?_⟩)))
    rcases execRegisterWrites_cases n s with ⟨_, he⟩ | ⟨_, he⟩ <;> cases he.symm.trans h <;> exact ⟨rfl, n.toNat, rfl⟩
  | storageWrite a b =>
    rcases execStorageWrite_cases a b s with ⟨_, he⟩ | ⟨_, _, he⟩ | ⟨_, _, he⟩ <;> cases he.symm.trans h <;>
      exact .inl ⟨rfl, rfl⟩
  | registerReads n =>
    refine .inr (.inr (.inr (.inr ⟨by simp [Instr.opcode], n.toNat, ?_⟩)))
    rcases execRegisterReads_cases n s with ⟨_, he⟩ | ⟨_, he⟩ <;> cases he.symm.trans h <;> exact ⟨rfl, rfl⟩
  | storageRead a =>
    rcases execStorageRead_cases a s with ⟨_, he⟩ | ⟨_, _, he⟩ | ⟨_, _, _, _, he⟩ | ⟨_, _, _, he⟩ <;>
      cases he.symm.trans h <;> exact .inl ⟨rfl, rfl⟩
  | popWord =>
    have hop : Instr.popWord.opcode ∈ [Opcode.registerReads, .popWord] := by simp [Instr.opcode]
    rcases execPopWord_cases s with ⟨_, he⟩ | ⟨_, _, he⟩ | ⟨_, _, _, _, he⟩ | ⟨_, _, _, he⟩ <;>
      cases he.symm.trans h
    · exact .inl ⟨rfl, rfl⟩
    · exact .inl ⟨rfl, rfl⟩
    · exact .inr (.inr (.inr (.inr ⟨hop, 4, rfl, rfl⟩)))
    · exact .inr (.inr (.inr (.inr ⟨hop, 4, by simp [State.consume_unwrittenRead], by simp [State.consume_unwrittenRead]⟩)))

/-- Settles O41, by the cases of `exec_indices`. -/
theorem singleWriterPerIndex : Obligations.SingleWriterPerIndex := by
  intro i s t h
  rcases exec_indices h with ⟨hr, hw⟩ | ⟨hi, hr, hw⟩ | ⟨hop, hempty, hr, _⟩ | ⟨hop, hr, _⟩ | ⟨hop, n, hr, hw⟩
  · exact ⟨fun hne => absurd hw hne, fun hne => absurd hr hne⟩
  · exact ⟨fun _ => .inr (.inr ⟨hi, hw⟩), fun _ => .inr (.inr ⟨hi, hr⟩)⟩
  · exact ⟨fun _ => .inl (by simp [hop]), fun _ => .inr (.inl ⟨hop, hempty, hr⟩)⟩
  · exact ⟨fun _ => .inl hop, fun hne => absurd hr hne⟩
  · refine ⟨fun hne => .inr (.inl ⟨hop, ?_⟩), fun _ => .inl hop⟩
    rw [hw] at hne
    rw [hr, hw]
    exact State.consume_widx_ne hne

/-- A query responds OK with a VALUE that does not depend on the responses given before, and changes nothing else (R54). -/
theorem exec_query {i : Instr} (s : State)
    (hi : i.opcode ∈ [Opcode.contigSpaceAvailable, .contigSpaceUsed, .spaceAvailable, .spaceUsed, .getState]) :
    ∃ v, ∀ rs, exec i { s with replies := rs } = .next ({ s with replies := rs }.plusReply i.port .ok v) := by
  cases i with
  | contigSpaceAvailable p => exact ⟨BitVec.ofNat 32 (contigAvail s.cfg s.ridx s.widx), fun _ => rfl⟩
  | contigSpaceUsed p => exact ⟨BitVec.ofNat 32 (contigUsed s.cfg s.ridx s.widx), fun _ => rfl⟩
  | spaceAvailable p => exact ⟨BitVec.ofNat 32 (avail s.cfg s.ridx s.widx), fun _ => rfl⟩
  | spaceUsed p => exact ⟨BitVec.ofNat 32 (used s.cfg s.ridx s.widx), fun _ => rfl⟩
  | getState p => exact ⟨stateValue s.cfg s.err (occ s.cfg s.ridx s.widx), fun _ => rfl⟩
  | init | pushWord v | registerWrites n | storageWrite a b | registerReads n | storageRead a | popWord =>
    simp [Instr.opcode] at hi

/-- Settles O39: the state after the first query differs from the one before in the responses given. -/
theorem queriesAreIdempotent : Obligations.QueriesAreIdempotent := by
  intro i s t hi h
  obtain ⟨v, hv⟩ := exec_query s hi
  cases (hv s.replies).symm.trans h
  exact ⟨v, rfl, hv _⟩

end Sys2Proof.Machine

/-! # Proofs of the family 20_memory: a pushed word reads back -/

namespace Sys2Proof.Machine

/-- Where an accepted push writes: at offset 0 after the empty reset, else at the write index (R80). -/
def State.pushOffset (s : State) : Nat := if s.ridx = s.widx then 0 else s.widx

/-- An accepted push leaves the four bytes of the word live at the offsets from `pushOffset` on (R42, R80). -/
theorem execPushWord_accepted {s : State} (hs : s.Inv) (v : Word)
    (h : s.ridx = s.widx ∨ 4 ≤ avail s.cfg s.ridx s.widx) :
    ∃ t, execPushWord v s = .next t ∧ t.cfg = s.cfg ∧ ∀ k, k < 4 →
      t.isLive (adv s.cfg s.pushOffset k) = true ∧
      t.byteAt (adv s.cfg s.pushOffset k) = some (v.extractLsb' (8 * k) 8) := by
  obtain ⟨hr, hw, -⟩ := hs
  have h8 := s.cfg.eight_le_cap
  rcases execPushWord_cases v s with ⟨hc, he⟩ | ⟨hc, hlt, _⟩ | ⟨hc, hle, he⟩
  · refine ⟨_, he, rfl, fun k hk => ?_⟩
    rw [State.pushOffset, if_pos hc]
    have hu : used s.cfg 0 4 = 4 := used_eq s.cfg (by omega) (by omega)
    have hl : live s.cfg 0 4 (adv s.cfg 0 k) = true := live_adv s.cfg (by omega) (by omega) (by omega)
    exact ⟨hl, read_memWrite_word_at s.cfg s.stor 0 v hk⟩
  · exact (h.elim hc fun hle => absurd hlt (not_lt.2 hle)).elim
  · refine ⟨_, he, rfl, fun k hk => ?_⟩
    rw [State.pushOffset, if_neg hc]
    exact ⟨live_adv_of_commit s.cfg hr hw hle hk, read_memWrite_word_at s.cfg s.stor s.widx v hk⟩

/-- An offset of storage fits the field ARG (R62). -/
theorem toNat_ofNat_of_lt_cap {c : Config} {a : Nat} (h : a < c.cap) : (BitVec.ofNat 32 a).toNat = a := by
  rw [BitVec.toNat_ofNat, Nat.mod_eq_of_lt (h.trans_le c.cap_le)]

/-- STORAGE_READ of a live byte that holds a value responds with the byte, zero-extended (R92). -/
theorem execStorageRead_ofNat {s : State} {a : Nat} {b : Byte} (ha : a < s.cfg.cap) (hl : s.isLive a = true)
    (hb : s.byteAt a = some b) :
    execStorageRead (BitVec.ofNat 32 a) s = .next (s.plusReply .consumer .ok (0#24 ++ b)) := by
  have hoff := toNat_ofNat_of_lt_cap ha
  have hzext : b.setWidth 32 = 0#24 ++ b := BitVec.setWidth_eq_append (by decide)
  rw [← hzext]
  exact execStorageRead_of_some (by rwa [hoff]) (by rwa [hoff]) (by rwa [hoff])

/-- Settles O53: the byte is live and written where STORAGE_READ looks. -/
theorem pushedWordReadsBack : Obligations.PushedWordReadsBack := by
  intro s v k hs hk hacc
  obtain ⟨t, ht, hcfg, hbytes⟩ := execPushWord_accepted hs v hacc
  obtain ⟨hlive, hbyte⟩ := hbytes k hk
  have hlt : adv s.cfg s.pushOffset k < t.cfg.cap := hcfg ▸ adv_lt s.cfg _ k
  exact ⟨t, ht, execStorageRead_ofNat hlt hlive hbyte⟩

end Sys2Proof.Machine

/-! # Proofs of the family 30_encoding: the decoder accepts exactly the legal commands -/

namespace Sys2Proof

theorem Opcode.ofBits_bits (o : Opcode) : Opcode.ofBits o.bits = some o := by
  cases o <;> rfl

theorem Opcode.ofBits_eq_some_iff {b : BitVec 4} {o : Opcode} : Opcode.ofBits b = some o ↔ b = o.bits :=
  ⟨fun h => (Opcode.bits_of_ofBits h).symm, fun h => h ▸ o.ofBits_bits⟩

/-- OP selects no row for the four reserved values only (R64). -/
theorem Opcode.ofBits_eq_none {b : BitVec 4} (h : Opcode.ofBits b = none) : b.toNat ∈ [0xC, 0xD, 0xE, 0xF] := by
  revert b
  decide

/-- The command (p, w) is a legal one of the row `o`: OP names the row, the reserved and the unused fields are 0, and the port may
issue it (R64 to R66). The parameter that POP_WORD needs is left out. -/
structure Opcode.Accepts (o : Opcode) (p : Port) (w : CmdWord) : Prop where
  op : Cmd.op w = o.bits
  rsv0 : Cmd.rsv0 w = 0#4
  rsv1 : Cmd.rsv1 w = 0#16
  bdata : o.usesBdata = false → Cmd.bdata w = 0#8
  arg : o.usesArg = false → Cmd.arg w = 0#32
  port : o.permits p = true

theorem Opcode.Accepts.decode_eq {o : Opcode} {p : Port} {w : CmdWord} (h : o.Accepts p w) :
    decode p w = .ok (o.build p (Cmd.arg w) (Cmd.bdata w)) := by
  rw [decode, Opcode.ofBits_eq_some_iff.2 h.op]
  have hrsv : ¬ (Cmd.rsv0 w ≠ 0#4 ∨ Cmd.rsv1 w ≠ 0#16) := by simp [h.rsv0, h.rsv1]
  have hbdata : ¬ (o.usesBdata = false ∧ Cmd.bdata w ≠ 0#8) := fun ⟨hu, hne⟩ => hne (h.bdata hu)
  have harg : ¬ (o.usesArg = false ∧ Cmd.arg w ≠ 0#32) := fun ⟨hu, hne⟩ => hne (h.arg hu)
  simp only [if_neg hrsv, if_neg hbdata, if_neg harg, h.port, Bool.true_eq_false, if_false]

theorem decode_eq_ok_iff {p : Port} {w : CmdWord} {i : Instr} :
    decode p w = .ok i ↔ ∃ o : Opcode, o.Accepts p w ∧ i = o.build p (Cmd.arg w) (Cmd.bdata w) := by
  constructor
  · intro h
    obtain ⟨o, ho, h0, h1, hb, ha, hp, hi⟩ := decode_ok h
    exact ⟨o, ⟨Opcode.ofBits_eq_some_iff.1 ho, h0, h1, hb, ha, hp⟩, hi⟩
  · rintro ⟨o, ho, rfl⟩
    exact ho.decode_eq

/-! ### An instruction and the fields it is built from -/

@[simp] theorem Opcode.opcode_build (o : Opcode) (p : Port) (arg : Word) (bdata : Byte) :
    (o.build p arg bdata).opcode = o := by
  cases o <;> rfl

theorem Opcode.arg_build {o : Opcode} (h : o.usesArg = true) (p : Port) (arg : Word) (bdata : Byte) :
    (o.build p arg bdata).arg = arg := by
  cases o with
  | pushWord | registerWrites | storageWrite | registerReads | storageRead => rfl
  | _ => cases h

theorem Opcode.bdata_build {o : Opcode} (h : o.usesBdata = true) (p : Port) (arg : Word) (bdata : Byte) :
    (o.build p arg bdata).bdata = bdata := by
  cases o with
  | storageWrite => rfl
  | _ => cases h

theorem Instr.build_fields (i : Instr) : i.opcode.build i.port i.arg i.bdata = i := by
  cases i <;> rfl

theorem Instr.permits_port (i : Instr) : i.opcode.permits i.port = true := by
  cases i <;> rfl

theorem Instr.bdata_of_unused {i : Instr} (h : i.opcode.usesBdata = false) : i.bdata = 0#8 := by
  cases i with
  | storageWrite a b => cases h
  | _ => rfl

theorem Instr.arg_of_unused {i : Instr} (h : i.opcode.usesArg = false) : i.arg = 0#32 := by
  cases i with
  | pushWord _ | registerWrites _ | storageWrite _ _ | registerReads _ | storageRead _ => cases h
  | _ => rfl

open Laws.EncodedFields in
/-- A word assembled for a row, with 0 where the row uses no operand, decodes on a port that may issue it to the instruction of
these operands. -/
theorem decode_assemble {o : Opcode} {p : Port} {arg : Word} {bdata : Byte} (hp : o.permits p = true)
    (hb : o.usesBdata = false → bdata = 0#8) (ha : o.usesArg = false → arg = 0#32) :
    decode p (Cmd.assemble o.bits bdata arg) = .ok (o.build p arg bdata) := by
  have hacc : o.Accepts p (Cmd.assemble o.bits bdata arg) :=
    { op := op_assemble _ _ _, rsv0 := rsv0_assemble _ _ _, rsv1 := rsv1_assemble _ _ _, port := hp,
      bdata := fun hu => (bdata_assemble _ _ _).trans (hb hu), arg := fun hu => (arg_assemble _ _ _).trans (ha hu) }
  rw [hacc.decode_eq, arg_assemble, bdata_assemble]

/-- Settles O1: an encoding is the word assembled from the fields the instruction is built from. -/
theorem decodeOfEncode : Obligations.DecodeOfEncode := by
  intro i
  rw [encode, decode_assemble i.permits_port Instr.bdata_of_unused Instr.arg_of_unused, i.build_fields]

/-- Settles O2: `encode_of_decode`, for every port and word. -/
theorem encodeOfDecode : Obligations.EncodeOfDecode := fun _ _ _ h => encode_of_decode h

/-! ### The conditions of R66 -/

/-! The lists of OP values in R66 against the rows' properties in R64 and R65. -/

theorem Opcode.bits_not_reserved (o : Opcode) : o.bits.toNat ∉ [0xC, 0xD, 0xE, 0xF] := by
  cases o <;> decide

theorem Opcode.bits_eq_popWord_iff (o : Opcode) : o.bits.toNat = 0xA ↔ o = .popWord := by
  cases o <;> decide

theorem Opcode.bits_ne_storageWrite_iff (o : Opcode) : o.bits.toNat ≠ 0x5 ↔ o.usesBdata = false := by
  cases o <;> decide

theorem Opcode.bits_not_mem_usesArg_iff (o : Opcode) : o.bits.toNat ∉ [0x1, 0x2, 0x5, 0x6, 0x9] ↔ o.usesArg = false := by
  cases o <;> decide

theorem Opcode.wrongPort_iff (o : Opcode) (p : Port) :
    ((o.bits.toNat ∈ [0x1, 0x2, 0x5] ∧ p ≠ .producer) ∨ (o.bits.toNat ∈ [0x6, 0x9, 0xA] ∧ p ≠ .consumer) ∨
      (o.bits.toNat = 0x0 ∧ p ≠ .control)) ↔ o.permits p = false := by
  cases o <;> cases p <;> decide

namespace Machine

theorem not_illegalByR66_of_op {c : Config} {p : Port} {w : CmdWord} {o : Opcode} (ho : Cmd.op w = o.bits) :
    ¬ illegalByR66 c p w ↔ o.Accepts p w ∧ (o = .popWord → c.hasPopWord = true) := by
  have hop : w.extractLsb' 0 4 = o.bits := ho
  rw [illegalByR66, hop, o.bits_eq_popWord_iff, o.bits_ne_storageWrite_iff, o.bits_not_mem_usesArg_iff, o.wrongPort_iff]
  simp only [o.bits_not_reserved, false_or, not_or, not_and, ne_eq, not_not, not_imp_not]
  simp only [Bool.not_eq_false]
  exact ⟨fun ⟨hpop, ⟨h0, h1⟩, hb, ha, hp⟩ => ⟨⟨ho, h0, h1, hb, ha, hp⟩, hpop⟩,
    fun ⟨h, hpop⟩ => ⟨hpop, ⟨h.rsv0, h.rsv1⟩, h.bdata, h.arg, h.port⟩⟩

/-- R66: a command is not illegal exactly when it is a legal one of some row, and of POP_WORD only in a block that has it. -/
theorem not_illegalByR66_iff {c : Config} {p : Port} {w : CmdWord} :
    ¬ illegalByR66 c p w ↔ ∃ o : Opcode, o.Accepts p w ∧ (o = .popWord → c.hasPopWord = true) := by
  constructor
  · intro h
    cases ho : Opcode.ofBits (Cmd.op w) with
    | none => exact absurd (.inl (Opcode.ofBits_eq_none ho)) h
    | some o => exact ⟨o, (not_illegalByR66_of_op (Opcode.ofBits_eq_some_iff.1 ho)).1 h⟩
  · rintro ⟨o, ho⟩
    exact (not_illegalByR66_of_op ho.1.op).2 ho

/-- Settles O3: both sides say that some row accepts the command. -/
theorem decoderAcceptsExactlyLegalCommands : Obligations.DecoderAcceptsExactlyLegalCommands := by
  intro c p w hpop
  rw [not_illegalByR66_iff]
  constructor
  · rintro ⟨i, hi⟩
    obtain ⟨o, ho, -⟩ := decode_eq_ok_iff.1 hi
    exact ⟨o, ho, fun _ => hpop⟩
  · rintro ⟨o, ho, -⟩
    exact ⟨_, ho.decode_eq⟩

end Machine
end Sys2Proof

/-! # Proofs of the family 30_encoding: the decoder agrees with the opcode table -/

namespace Sys2Proof

/-- A command word is its five fields, end to end (R61). -/
theorem Cmd.append_fields (w : CmdWord) :
    Cmd.arg w ++ (Cmd.rsv1 w ++ (Cmd.bdata w ++ (Cmd.rsv0 w ++ Cmd.op w))) = w := by
  unfold Cmd.arg Cmd.rsv1 Cmd.bdata Cmd.rsv0 Cmd.op
  rw [BitVec.extractLsb'_append_extractLsb'_eq_extractLsb' (show 4 = 0 + 4 from rfl),
    BitVec.extractLsb'_append_extractLsb'_eq_extractLsb' (show 8 = 0 + 8 from rfl),
    BitVec.extractLsb'_append_extractLsb'_eq_extractLsb' (show 16 = 0 + 16 from rfl),
    BitVec.extractLsb'_append_extractLsb'_eq_extractLsb' (show 32 = 0 + 32 from rfl)]
  exact BitVec.extractLsb'_eq_self

theorem Cmd.op_and (w v : CmdWord) : Cmd.op (w &&& v) = Cmd.op w &&& Cmd.op v := BitVec.extractLsb'_and
theorem Cmd.rsv0_and (w v : CmdWord) : Cmd.rsv0 (w &&& v) = Cmd.rsv0 w &&& Cmd.rsv0 v := BitVec.extractLsb'_and
theorem Cmd.bdata_and (w v : CmdWord) : Cmd.bdata (w &&& v) = Cmd.bdata w &&& Cmd.bdata v := BitVec.extractLsb'_and
theorem Cmd.rsv1_and (w v : CmdWord) : Cmd.rsv1 (w &&& v) = Cmd.rsv1 w &&& Cmd.rsv1 v := BitVec.extractLsb'_and
theorem Cmd.arg_and (w v : CmdWord) : Cmd.arg (w &&& v) = Cmd.arg w &&& Cmd.arg v := BitVec.extractLsb'_and

theorem Cmd.eq_iff_fields {w v : CmdWord} :
    w = v ↔ Cmd.op w = Cmd.op v ∧ Cmd.rsv0 w = Cmd.rsv0 v ∧ Cmd.bdata w = Cmd.bdata v ∧ Cmd.rsv1 w = Cmd.rsv1 v ∧
      Cmd.arg w = Cmd.arg v := by
  constructor
  · rintro rfl
    exact ⟨rfl, rfl, rfl, rfl, rfl⟩
  · rintro ⟨hop, h0, hb, h1, ha⟩
    rw [← Cmd.append_fields w, hop, h0, hb, h1, ha, Cmd.append_fields]

/-- The fields of a row's mask and pattern: OP, the reserved fields and the unused fields are compared, OP with the row's value
and the others with 0 (R64, R66). -/
theorem opcodeTable_fields {row : TableRow} (h : row ∈ opcodeTable) :
    (Cmd.op row.mask = BitVec.allOnes 4 ∧ Cmd.rsv0 row.mask = BitVec.allOnes 4 ∧
      Cmd.bdata row.mask = (if row.opcode.usesBdata then 0#8 else BitVec.allOnes 8) ∧
      Cmd.rsv1 row.mask = BitVec.allOnes 16 ∧
      Cmd.arg row.mask = (if row.opcode.usesArg then 0#32 else BitVec.allOnes 32)) ∧
    row.pattern = Cmd.assemble row.opcode.bits 0#8 0#32 ∧ row.port = row.opcode.onlyPort := by
  revert row
  decide

theorem Opcode.permits_iff (o : Opcode) (p : Port) : o.permits p = true ↔ o.onlyPort = none ∨ o.onlyPort = some p := by
  unfold Opcode.permits
  cases o.onlyPort <;> simp [eq_comm]

theorem and_mask_eq_zero_iff {n : Nat} (used : Bool) (x : BitVec n) :
    x &&& (if used then 0#n else BitVec.allOnes n) = 0#n ↔ (used = false → x = 0#n) := by
  cases used <;> simp

open Laws.EncodedFields in
theorem TableRow.covers_iff {row : TableRow} (hrow : row ∈ opcodeTable) (p : Port) (w : CmdWord) :
    row.covers p w = true ↔ row.opcode.Accepts p w := by
  obtain ⟨⟨hop, h0, hb, h1, ha⟩, hpat, hport⟩ := opcodeTable_fields hrow
  have hword : w &&& row.mask = row.pattern ↔ Cmd.op w = row.opcode.bits ∧ Cmd.rsv0 w = 0#4 ∧
      (row.opcode.usesBdata = false → Cmd.bdata w = 0#8) ∧ Cmd.rsv1 w = 0#16 ∧
      (row.opcode.usesArg = false → Cmd.arg w = 0#32) := by
    rw [Cmd.eq_iff_fields, hpat, op_assemble, rsv0_assemble, bdata_assemble, rsv1_assemble, arg_assemble,
      Cmd.op_and, Cmd.rsv0_and, Cmd.bdata_and, Cmd.rsv1_and, Cmd.arg_and, hop, h0, hb, h1, ha,
      and_mask_eq_zero_iff, and_mask_eq_zero_iff, BitVec.and_allOnes, BitVec.and_allOnes, BitVec.and_allOnes]
  rw [TableRow.covers, Bool.and_eq_true, decide_eq_true_iff, decide_eq_true_iff, hword, hport, ← Opcode.permits_iff]
  exact ⟨fun ⟨⟨hop, h0, hb, h1, ha⟩, hp⟩ => ⟨hop, h0, h1, hb, ha, hp⟩,
    fun h => ⟨⟨h.op, h.rsv0, h.bdata, h.rsv1, h.arg⟩, h.port⟩⟩

/-- Settles O4: the row covers the commands that it accepts, which are those that decode to it. -/
theorem decoderAgreesWithOpcodeTable : Obligations.DecoderAgreesWithOpcodeTable := by
  intro p w row hrow
  rw [TableRow.covers_iff hrow]
  constructor
  · intro h
    exact ⟨_, h.decode_eq, Opcode.opcode_build _ _ _ _⟩
  · rintro ⟨i, hi, hop⟩
    obtain ⟨o, ho, rfl⟩ := decode_eq_ok_iff.1 hi
    rwa [← hop, Opcode.opcode_build]

end Sys2Proof

/-! # Proofs of the family 30_encoding: the assembler -/

namespace Sys2Proof.Machine

theorem asmWord_arg {o : Opcode} (ha : o.usesArg = true) (hb : o.usesBdata = false) (n : Nat) :
    asmWord o [n] =
      if n < 2 ^ 32 then .ok (Cmd.assemble o.bits 0#8 (BitVec.ofNat 32 n)) else .error .operandTooWide := by
  simp only [asmWord, ha, hb]

theorem asmWord_storageWrite (a b : Nat) :
    asmWord .storageWrite [a, b] =
      if a < 2 ^ 32 ∧ b < 2 ^ 8 then .ok (Cmd.assemble Opcode.storageWrite.bits (BitVec.ofNat 8 b) (BitVec.ofNat 32 a))
      else .error .operandTooWide := rfl

/-- Settles O7, by the assembler's one test of the operands' size. -/
theorem assemblerRefusesWideOperands : Obligations.AssemblerRefusesWideOperands := by
  refine ⟨fun o n ha hb => ?_, fun a b => ?_⟩
  · rw [asmWord_arg ha hb]
    split_ifs with h
    · exact iff_of_true ⟨_, rfl⟩ h
    · exact iff_of_false nofun h
  · rw [asmWord_storageWrite]
    split_ifs with h
    · exact iff_of_true ⟨_, rfl⟩ h
    · exact iff_of_false nofun h

/-- An assembled word is the command of its row; the operands are the fields that the row uses, and the other fields are 0 (R69). -/
theorem asmWord_eq_ok {o : Opcode} {operands : List Nat} {w : CmdWord} (h : asmWord o operands = .ok w) :
    ∃ (arg : Word) (bdata : Byte), w = Cmd.assemble o.bits bdata arg ∧
      (o.usesArg = false → arg = 0#32) ∧ (o.usesBdata = false → bdata = 0#8) ∧
      operands = (if o.usesArg then [arg.toNat] else []) ++ (if o.usesBdata then [bdata.toNat] else []) := by
  unfold asmWord at h
  split at h
  · rename_i ha hb
    cases h
    exact ⟨0#32, 0#8, rfl, fun _ => rfl, fun _ => rfl, by simp [ha, hb]⟩
  · rename_i a ha hb
    split_ifs at h with hfit
    cases h
    have hval : (BitVec.ofNat 32 a).toNat = a := Nat.mod_eq_of_lt hfit
    exact ⟨BitVec.ofNat 32 a, 0#8, rfl, by simp [ha], fun _ => rfl, by rw [ha, hb, hval]; rfl⟩
  · rename_i a b ha hb
    split_ifs at h with hfit
    cases h
    have hval : (BitVec.ofNat 32 a).toNat = a := Nat.mod_eq_of_lt hfit.1
    have hval' : (BitVec.ofNat 8 b).toNat = b := Nat.mod_eq_of_lt hfit.2
    exact ⟨BitVec.ofNat 32 a, BitVec.ofNat 8 b, rfl, by simp [ha], by simp [hb], by rw [ha, hb, hval, hval']; rfl⟩
  · cases h

/-- Settles O6: the assembled word is one that `decode_assemble` decodes. -/
theorem assembledWordsDecode : Obligations.AssembledWordsDecode := by
  intro o operands p w h hp
  obtain ⟨arg, bdata, rfl, ha, hb, rfl⟩ := asmWord_eq_ok h
  refine ⟨_, decode_assemble hp hb ha, Opcode.opcode_build _ _ _ _, ?_⟩
  congr 1
  · split_ifs with hu
    · rw [Opcode.arg_build hu]
    · rfl
  · split_ifs with hu
    · rw [Opcode.bdata_build hu]
    · rfl

end Sys2Proof.Machine

/-! # Proofs of the family 30_encoding: legality decides the step -/

namespace Sys2Proof

theorem Opcode.wf_build_iff (c : Config) (o : Opcode) (p : Port) (arg : Word) (bdata : Byte) :
    (o.build p arg bdata).wf c = true ↔ (o = .popWord → c.hasPopWord = true) := by
  cases o <;> simp [Opcode.build, Instr.wf]

namespace Machine

/-- An illegal command runs no part of a rule: the decoder refuses it, or it is POP_WORD in a block without it (R66). -/
theorem runCommand_of_illegal {p : Port} {w : CmdWord} {s : State} (h : illegalByR66 s.cfg p w) :
    runCommand p w s = illegalCommand p s := by
  cases hd : decode p w with
  | error r => rw [runCommand, hd]
  | ok i =>
    obtain ⟨o, ho, rfl⟩ := decode_eq_ok_iff.1 hd
    have hpop : ¬ (o = .popWord → s.cfg.hasPopWord = true) := fun hp => (not_illegalByR66_of_op ho.op).2 ⟨ho, hp⟩ h
    obtain ⟨rfl, hno⟩ := Classical.not_imp.1 hpop
    have hport : p = .consumer := of_decide_eq_true ho.port
    rw [runCommand_of_decode hd, hport]
    show execPopWord s = _
    rw [execPopWord, if_pos (Bool.not_eq_true _ ▸ hno)]

/-- Settles O9: an illegal command is reported, and a legal one has a row that accepts it. -/
theorem legalityDecidesStep : Obligations.LegalityDecidesStep := by
  intro s p w es hev hw
  constructor
  · intro h
    exact (step_of_serve hev hw).trans (runCommand_of_illegal h)
  · intro h
    obtain ⟨o, ho, hpop⟩ := not_illegalByR66_iff.1 h
    exact ⟨_, (Opcode.wf_build_iff _ _ _ _ _).2 hpop, encode_of_decode ho.decode_eq,
      stepRunsDecodedCommand s p w _ es hev hw ho.decode_eq⟩

end Machine
end Sys2Proof

/-! # Proofs of the family 30_encoding: one response per command, and the source of FULL and NODATA -/

namespace Sys2Proof.Machine

/-- A response added to a state that has given the responses of `s` (R63). -/
theorem State.answers_reply {s u : State} (h : u.replies = s.replies) (p : Port) (st : Status) (v : Word) :
    s.answers (u.reply p st v) p st v := by
  show _ :: u.replies = _ :: s.replies
  rw [h]
  rfl

/-- Every instruction gives one response, on its own port, FULL from PUSH_WORD and NODATA from POP_WORD only (R63, R67). -/
theorem exec_answers {i : Instr} {s t : State} (h : exec i s = .next t) :
    ∃ st v, s.answers t i.port st v ∧ (st = .full → ∃ x, i = .pushWord x) ∧ (st = .nodata → i = .popWord) := by
  cases i with
  | init | contigSpaceAvailable p | spaceAvailable p | contigSpaceUsed p | spaceUsed p | getState p =>
    cases h
    exact ⟨_, _, State.answers_reply rfl _ _ _, nofun, nofun⟩
  | pushWord v =>
    rcases execPushWord_cases v s with ⟨_, he⟩ | ⟨_, _, he⟩ | ⟨_, _, he⟩ <;> cases he.symm.trans h
    · exact ⟨_, _, State.answers_reply rfl _ _ _, nofun, nofun⟩
    · exact ⟨_, _, State.answers_reply rfl _ _ _, fun _ => ⟨v, rfl⟩, nofun⟩
    · exact ⟨_, _, State.answers_reply rfl _ _ _, nofun, nofun⟩
  | registerWrites n =>
    rcases execRegisterWrites_cases n s with ⟨_, he⟩ | ⟨_, he⟩ <;> cases he.symm.trans h <;>
      exact ⟨_, _, State.answers_reply rfl _ _ _, nofun, nofun⟩
  | storageWrite a b =>
    rcases execStorageWrite_cases a b s with ⟨_, he⟩ | ⟨_, _, he⟩ | ⟨_, _, he⟩ <;> cases he.symm.trans h <;>
      exact ⟨_, _, State.answers_reply rfl _ _ _, nofun, nofun⟩
  | registerReads n =>
    rcases execRegisterReads_cases n s with ⟨_, he⟩ | ⟨_, he⟩ <;> cases he.symm.trans h <;>
      exact ⟨_, _, State.answers_reply (by simp) _ _ _, nofun, nofun⟩
  | storageRead a =>
    rcases execStorageRead_cases a s with ⟨_, he⟩ | ⟨_, _, he⟩ | ⟨_, _, _, _, he⟩ | ⟨_, _, _, he⟩ <;>
      cases he.symm.trans h <;> exact ⟨_, _, State.answers_reply rfl _ _ _, nofun, nofun⟩
  | popWord =>
    rcases execPopWord_cases s with ⟨_, he⟩ | ⟨_, _, he⟩ | ⟨_, _, _, _, he⟩ | ⟨_, _, _, he⟩ <;> cases he.symm.trans h
    · exact ⟨_, _, State.answers_reply rfl _ _ _, nofun, nofun⟩
    · exact ⟨_, _, State.answers_reply rfl _ _ _, nofun, fun _ => rfl⟩
    · exact ⟨_, _, State.answers_reply (by simp) _ _ _, nofun, nofun⟩
    · exact ⟨_, _, State.answers_reply (by simp) _ _ _, nofun, nofun⟩

/-- Every command, legal or not, gives one response, on the port it came on (R63, R67). -/
theorem runCommand_answers {p : Port} {w : CmdWord} {s t : State} (h : runCommand p w s = .next t) :
    ∃ st v, s.answers t p st v ∧ (st = .full → ∃ x, encode (.pushWord x) = (p, w)) ∧
      (st = .nodata → encode .popWord = (p, w)) := by
  cases hd : decode p w with
  | error r =>
    rw [runCommand, hd] at h
    cases h
    exact ⟨_, _, State.answers_reply rfl _ _ _, nofun, nofun⟩
  | ok i =>
    have hi : encode i = (p, w) := encode_of_decode hd
    rw [runCommand_of_decode hd] at h
    obtain ⟨st, v, hans, hfull, hnodata⟩ := exec_answers h
    have hport : i.port = p := congrArg Prod.fst hi
    refine ⟨st, v, hport ▸ hans, fun hst => ?_, fun hst => hnodata hst ▸ hi⟩
    obtain ⟨x, rfl⟩ := hfull hst
    exact ⟨x, hi⟩

/-- Settles O12: serving a command runs it, and no other case of a step gives a response. -/
theorem oneResponsePerCommand : Obligations.OneResponsePerCommand := by
  intro s t h
  constructor
  · intro p w es hev hw
    obtain ⟨st, v, hans, -, -⟩ := runCommand_answers ((step_of_serve hev hw).symm.trans h)
    exact ⟨st, v, hans⟩
  · intro hidle
    rcases step_cases s with ⟨_, he⟩ | ⟨p, w, es, _, he⟩ | ⟨p, es, _, _, he⟩ | ⟨p, w, es, hev, hw, _⟩ | ⟨es, _, he⟩
    · cases he.symm.trans h
      rfl
    · rcases issueCommand_cases p w (s.setEvents es) with ⟨_, hi⟩ | ⟨_, _, hi⟩ <;> cases (he.trans hi).symm.trans h
      rfl
    · cases he.symm.trans h
      rfl
    · exact absurd ⟨hev, hw⟩ (hidle p es w)
    · cases he.symm.trans h
      rfl

theorem State.answers_status_unique {s t : State} {p : Port} {st st' : Status} {v v' : Word} (h : s.answers t p st v)
    (h' : s.answers t p st' v') : st = st' :=
  congrArg Reply.status (List.cons.inj (h.symm.trans h')).1

/-- Settles O23: the response of a step that serves a command is unique, and its source is known. -/
theorem fullAndNodataHaveOneSource : Obligations.FullAndNodataHaveOneSource := by
  intro s t p w es v hev hw h
  obtain ⟨st, v', hans, hfull, hnodata⟩ := runCommand_answers ((step_of_serve hev hw).symm.trans h)
  constructor
  · intro hf
    obtain ⟨x, hx⟩ := hfull (State.answers_status_unique hans hf)
    cases hx
    exact ⟨rfl, Laws.EncodedFields.op_assemble _ _ _⟩
  · intro hn
    cases hnodata (State.answers_status_unique hans hn)
    exact ⟨rfl, rfl⟩

end Sys2Proof.Machine

/-! # Proofs of the family 30_encoding: the response -/

namespace Sys2Proof.Machine

/-- Settles O13: each field is one part of the word RESP (R63). -/
theorem responseLayout : Obligations.ResponseLayout := by
  intro r
  refine ⟨?_, ?_, ?_, ?_, ?_⟩ <;> rw [Reply.pack]
  · rw [BitVec.extractLsb'_append_eq_of_add_le (by decide), BitVec.extractLsb'_append_eq_of_add_le (by decide),
      BitVec.extractLsb'_append_eq_of_add_le (by decide), BitVec.extractLsb'_append_eq_right]
    cases r.status <;> rfl
  · rw [BitVec.extractLsb'_append_eq_of_add_le (by decide), BitVec.extractLsb'_append_eq_of_add_le (by decide),
      BitVec.extractLsb'_append_eq_of_add_le (by decide), BitVec.extractLsb'_append_eq_left]
  · rw [BitVec.extractLsb'_append_eq_of_add_le (by decide), BitVec.extractLsb'_append_eq_of_add_le (by decide)]
    exact BitVec.extractLsb'_append_eq_left
  · rw [BitVec.extractLsb'_append_eq_of_add_le (by decide)]
    exact BitVec.extractLsb'_append_eq_left
  · exact BitVec.extractLsb'_append_eq_left

/-- Settles O5, by running the decoder on each word. -/
theorem specWordsDecode : Obligations.SpecWordsDecode := ⟨rfl, rfl, rfl, rfl, rfl, rfl, rfl, rfl⟩

end Sys2Proof.Machine

/-! # Proofs of the family 40_push: the three outcomes of PUSH_WORD -/

namespace Sys2Proof.Machine

/-- The command of an instruction without BDATA: ARG over OP (R61). -/
theorem encode_of_bdata_zero {i : Instr} (h : i.bdata = 0#8) :
    encode i = (i.port, i.arg ++ i.opcode.bits.setWidth 32) := by
  have hlow (b : BitVec 4) : 0#16 ++ (0#8 ++ (0#4 ++ b)) = b.setWidth 32 := by revert b; decide
  rw [encode, Cmd.assemble, h, hlow]

/-- `avail` with the difference written on natural numbers (R12, R27). -/
theorem avail_eq_mod (c : Config) {r w : Nat} (hr : r < c.cap) (hw : w < c.cap) :
    avail c r w = c.cap - 1 - (w + c.cap - r) % c.cap := by
  rw [avail, used, modDiff_eq_mod c hw hr, Config.effCap_eq]

/-- After the empty reset the word lies at offsets 0 to 3, without a wrap. -/
theorem adv_zero_of_lt_four (c : Config) {k : Nat} (hk : k < 4) : adv c 0 k = k := by
  have h8 := c.eight_le_cap
  rw [adv_of_lt c (by omega), Nat.zero_add]

/-- Settles O24, by the three cases of PUSH_WORD. -/
theorem pushWordResult : Obligations.PushWordResult := by
  rintro s v ⟨hr, hw, -⟩
  refine ⟨encode_of_bdata_zero rfl, ?_⟩
  rw [← avail_eq_mod s.cfg hr hw]
  rcases execPushWord_cases v s with ⟨hc, he⟩ | ⟨hc, hlt, he⟩ | ⟨hc, hle, he⟩ <;>
    refine ⟨_, he, ⟨rfl, rfl, rfl⟩, rfl, rfl, rfl, ?_⟩
  · rw [if_pos hc]
    refine ⟨rfl, rfl, rfl, fun k hk => ?_, fun a ha => ?_⟩
    · have hbyte := read_memWrite_word_at s.cfg s.stor 0 v hk
      rwa [adv_zero_of_lt_four s.cfg hk] at hbyte
    · refine read_memWrite_word_other s.cfg s.stor 0 a v fun k hk => ?_
      rw [adv_zero_of_lt_four s.cfg hk]
      omega
  · rw [if_neg hc, if_pos hlt]
    exact ⟨rfl, rfl, rfl, fun _ => rfl⟩
  · rw [if_neg hc, if_neg (not_lt.2 hle)]
    exact ⟨rfl, rfl, rfl, fun k hk => read_memWrite_word_at s.cfg s.stor s.widx v hk,
      fun a ha => read_memWrite_word_other s.cfg s.stor s.widx a v ha⟩

/-- Settles O25: of the append case of `pushWordResult`, what the offsets come to on the two sides of the end of storage. -/
theorem pushWordSplit : Obligations.PushWordSplit := by
  intro s v hs hne hend hfit
  obtain ⟨-, t, ht, -, -, -, -, hres⟩ := pushWordResult s v hs
  rw [if_neg hne, if_neg (not_lt.2 hfit)] at hres
  obtain ⟨-, -, hwidx, hbytes, -⟩ := hres
  obtain ⟨-, hw, -⟩ := hs
  have h8 := s.cfg.eight_le_cap
  have h4 := s.cfg.four_dvd_cap
  have hwrap {k : Nat} (hk : k ≤ 4) (hover : s.cfg.cap ≤ s.widx + k) :
      (s.widx + k) % s.cfg.cap = s.widx + k - s.cfg.cap := adv_of_wrap s.cfg hover (by omega)
  refine ⟨t, ht, by omega, by omega, hwidx.trans (hwrap le_rfl (by omega)), fun k hk => ?_, fun k hk hk4 => ?_⟩
  · have hin : s.widx + k < s.cfg.cap := by omega
    have hbyte := hbytes k (by omega)
    rw [Nat.mod_eq_of_lt hin] at hbyte
    exact ⟨hin, hbyte⟩
  · have hbyte := hbytes k hk4
    rw [hwrap hk4.le (by omega)] at hbyte
    convert hbyte using 2
    omega

end Sys2Proof.Machine

/-! # Proofs of the family 40_push: the full test of the reference -/

namespace Sys2Proof.Machine

/-- An advance keeps residues modulo 4, since `CAP` is a multiple of 4. -/
theorem adv_mod_four (c : Config) (i n : Nat) : adv c i n % 4 = (i + n) % 4 :=
  Nat.mod_mod_of_dvd _ c.four_dvd_cap

/-- From congruent indices a multiple of 4 bytes is free, less the byte kept in reserve (R82). -/
theorem avail_mod_four (c : Config) {r w : Nat} (hr : r < c.cap) (hw : w < c.cap) (h : r % 4 = w % 4) :
    avail c r w % 4 = 3 := by
  have h4 := c.four_dvd_cap
  rw [avail_eq c hr hw]
  split_ifs <;> omega

/-- The reference's test: the advanced write index lands on the read index just when three bytes are free besides the reserved one. -/
theorem adv_widx_eq_ridx_iff (c : Config) {r w : Nat} (hr : r < c.cap) (hw : w < c.cap) :
    adv c w 4 = r ↔ avail c r w = 3 := by
  have h8 := c.eight_le_cap
  rw [avail_eq c hr hw, adv_eq c hw (by omega)]
  split_ifs <;> omega

/-- Advancing the read index by a multiple of 4 keeps the indices congruent, by the reset of both as well. -/
theorem State.consume_congruent {s : State} {n : Nat} (hn : n % 4 = 0) (h : s.ridx % 4 = s.widx % 4) :
    (s.consume n).ridx % 4 = (s.consume n).widx % 4 := by
  rw [State.consume_ridx, State.consume_widx]
  split_ifs
  · rfl
  · rw [adv_mod_four]
    omega

/-- Advancing the write index by a multiple of 4 keeps the indices congruent. -/
theorem State.produce_congruent {s : State} {n : Nat} (hn : n % 4 = 0) (h : s.ridx % 4 = s.widx % 4) :
    (s.produce n).ridx % 4 = (s.produce n).widx % 4 := by
  rw [State.produce_ridx, State.produce_widx, adv_mod_four]
  omega

/-- Settles O26: `avail` is 3 modulo 4, so below 4 it is 3; and each advance is by a multiple of 4. -/
theorem fullTestAgreesWithReference : Obligations.FullTestAgreesWithReference := by
  constructor
  · intro c r w hr hw hne hcong
    have hmod := avail_mod_four c hr hw hcong
    have hthree : avail c r w < 4 ↔ avail c r w = 3 := by omega
    exact ⟨hmod, hthree, hthree.trans (adv_widx_eq_ridx_iff c hr hw).symm⟩
  · rintro i s t - (⟨v, rfl⟩ | ⟨n, hn, rfl | rfl⟩) h hcong
    · rcases execPushWord_cases v s with ⟨_, he⟩ | ⟨_, _, he⟩ | ⟨_, _, he⟩ <;> cases he.symm.trans h
      · simp
      · exact hcong
      · exact State.produce_congruent (s := s) rfl hcong
    · rcases execRegisterWrites_cases n s with ⟨_, he⟩ | ⟨_, he⟩ <;> cases he.symm.trans h <;>
        exact State.produce_congruent hn hcong
    · rcases execRegisterReads_cases n s with ⟨_, he⟩ | ⟨_, he⟩ <;> cases he.symm.trans h <;>
        exact State.consume_congruent hn hcong

end Sys2Proof.Machine

/-! # Proofs of the family 40_push: unread bytes -/

namespace Sys2Proof.Machine

section
variable (c : Config)

theorem adv_adv (i m n : Nat) : adv c (adv c i m) n = adv c i (m + n) := by
  rw [adv, adv, adv, Nat.mod_add_mod, Nat.add_assoc]

/-- The write index stands `used` bytes past the read index, so an offset past it is counted from the read index. -/
theorem adv_widx_eq_adv_ridx {r w : Nat} (hr : r < c.cap) (hw : w < c.cap) (n : Nat) :
    adv c w n = adv c r (used c r w + n) := by
  rw [← adv_adv, (adv_eq_widx_iff c hr hw (used_lt c hr hw)).2 rfl]

/-- A commit of `n` bytes that fits `avail` raises `used` by `n` (R84). -/
theorem used_adv_widx {r w n : Nat} (hr : r < c.cap) (hw : w < c.cap) (hn : n ≤ avail c r w) :
    used c r (adv c w n) = used c r w + n := by
  have hsum := used_add_avail c hr hw
  rw [Config.effCap_eq] at hsum
  rw [adv_widx_eq_adv_ridx c hr hw, used, modDiff_adv c hr (by omega)]

/-- The `avail` offsets from the write index on, and the reserved one after them, are free. -/
theorem live_adv_widx {r w k : Nat} (hr : r < c.cap) (hw : w < c.cap) (hk : k ≤ avail c r w) :
    live c r w (adv c w k) = false := by
  have hsum := used_add_avail c hr hw
  rw [Config.effCap_eq] at hsum
  rw [adv_widx_eq_adv_ridx c hr hw, ← Bool.not_eq_true, live_adv_iff c w hr (by omega)]
  omega

/-- A live offset stays live when `used` does not fall. -/
theorem live_of_used_le {r w w' a : Nat} (h : used c r w ≤ used c r w') (hl : live c r w a = true) :
    live c r w' a = true := by
  rw [live, decide_eq_true_iff] at hl ⊢
  exact hl.trans_le h

end

/-- A word written into free space changes no live byte. -/
theorem read_memWrite_word_of_live (c : Config) (m : Memory) {r w a : Nat} (v : Word) (hr : r < c.cap) (hw : w < c.cap)
    (hfit : 4 ≤ avail c r w) (hl : live c r w a = true) : (memWrite c m w (bytesOf v)).read a = m.read a := by
  refine read_memWrite_word_other c m w a v fun k hk ha => ?_
  rw [ha, live_adv_widx c hr hw (by omega)] at hl
  exact Bool.false_ne_true hl

/-- Settles O27: after the empty reset the live offsets are 0 to 3; an append fits the free space, so `used` rises by 4 and
the write meets no live byte. -/
theorem pushKeepsUnreadBytes : Obligations.PushKeepsUnreadBytes := by
  rintro s v ⟨hr, hw, -⟩
  have h4 : 4 < s.cfg.cap := Nat.lt_of_lt_of_le (by decide) s.cfg.eight_le_cap
  have h0 : 0 < s.cfg.cap := Nat.zero_lt_of_lt h4
  rcases execPushWord_cases v s with ⟨hc, he⟩ | ⟨hc, hlt, he⟩ | ⟨hc, hle, he⟩ <;>
    refine ⟨_, _, he, State.answers_reply rfl _ _ _, ?_⟩
  · refine ⟨fun _ hne => absurd hc hne, fun _ _ => ⟨?_, fun a ha => ?_⟩, fun _ => ?_, nofun⟩
    · exact used_eq s.cfg h0 h4
    · exact (live_iff s.cfg h0 h4 ha).trans (by simp)
    · exact (occ_eq_empty_iff s.cfg 0 4).not.2 (by omega)
  · exact ⟨nofun, nofun, nofun, fun _ => ⟨rfl, rfl⟩⟩
  · have hused := used_adv_widx s.cfg hr hw hle
    refine ⟨fun _ _ => ⟨hused, fun a _ hl => ⟨?_, ?_⟩⟩, fun _ heq => absurd heq hc, fun _ => ?_, fun h => absurd rfl h⟩
    · exact live_of_used_le s.cfg (hused ▸ Nat.le_add_right _ _) hl
    · exact read_memWrite_word_of_live s.cfg s.stor v hr hw hle hl
    · exact (occ_eq_empty_iff s.cfg _ _).not.2 (adv_ne_ridx s.cfg hr hw hc hle).symm

end Sys2Proof.Machine

/-! # Proofs of the family 41_read: POP_WORD -/

namespace Sys2Proof.Machine

/-- `used` with the difference written on natural numbers (R12, R26). -/
theorem used_eq_mod (c : Config) {r w : Nat} (hr : r < c.cap) (hw : w < c.cap) :
    used c r w = (w + c.cap - r) % c.cap := modDiff_eq_mod c hw hr

/-- Storage that is not replaced reads as before. -/
theorem State.sameStorage_of_stor_eq {s t : State} (h : t.stor = s.stor) : s.sameStorage t := fun a =>
  congrArg (Memory.read · a) h

/-- The read index advances by `n`, or both indices become 0 where that lands on the write index (R90, R110). -/
theorem State.consume_indices (s : State) (n : Nat) :
    if (s.ridx + n) % s.cfg.cap = s.widx then (s.consume n).ridx = 0 ∧ (s.consume n).widx = 0
    else (s.consume n).ridx = (s.ridx + n) % s.cfg.cap ∧ (s.consume n).widx = s.widx := by
  rw [State.consume_ridx, State.consume_widx, adv]
  split_ifs <;> exact ⟨rfl, rfl⟩

/-- `word_of` is one concatenation, most significant byte first (R42). -/
theorem wordOf_eq_append (b0 b1 b2 b3 : Byte) : wordOf b0 b1 b2 b3 = b3 ++ b2 ++ b1 ++ b0 := by
  rw [BitVec.append_assoc, BitVec.append_assoc]
  rfl

/-- The word of a read of four bytes that all hold a value, the bytes named by their place. -/
theorem wordOfRead_eq_append (c : Config) (m : Memory) (a : Nat) {b : Nat → Byte}
    (h : ∀ k, k < 4 → m.read (adv c a k) = some (b k)) :
    wordOfRead (memRead c m a 4) = some (b 3 ++ b 2 ++ b 1 ++ b 0) := by
  rw [← wordOf_eq_append]
  exact wordOfRead_some c m a _ _ _ _ (h 0 (by decide)) (h 1 (by decide)) (h 2 (by decide)) (h 3 (by decide))

/-- Settles O28, by the four cases of POP_WORD: the word is there exactly when each of its four bytes has a value. -/
theorem popWordResult : Obligations.PopWordResult := by
  rintro s ⟨hr, hw, -⟩
  refine ⟨rfl, ?_⟩
  rw [← used_eq_mod s.cfg hr hw]
  rcases execPopWord_cases s with ⟨hp, he⟩ | ⟨hp, hu, he⟩ | ⟨v, hp, hu, hv, he⟩ | ⟨hp, hu, hv, he⟩
  · refine ⟨_, he, ⟨rfl, rfl, rfl⟩, fun _ => rfl, ?_⟩
    rw [if_pos hp]
    exact ⟨rfl, rfl, rfl, rfl, rfl, rfl⟩
  · refine ⟨_, he, ⟨rfl, rfl, rfl⟩, fun _ => rfl, ?_⟩
    rw [if_neg (ne_false_of_eq_true hp), if_pos hu]
    exact ⟨rfl, rfl, rfl, rfl, rfl, rfl⟩
  · refine ⟨_, he, ⟨by simp, by simp, by simp⟩, State.sameStorage_of_stor_eq (by simp), ?_⟩
    rw [if_neg (ne_false_of_eq_true hp), if_neg (not_lt.2 hu)]
    refine ⟨by simp, by simpa using s.consume_indices 4, fun b hb => ⟨?_, by simp, by simp⟩, fun k hk hnone => ?_⟩
    · rw [← Option.some.inj (hv.symm.trans (wordOfRead_eq_append s.cfg s.stor s.ridx hb))]
      exact State.answers_reply (by simp) _ _ _
    · exact absurd (hv.symm.trans (wordOfRead_none s.cfg s.stor s.ridx k hk hnone)) (Option.some_ne_none v)
  · rw [State.consume_unwrittenRead] at he
    refine ⟨_, he, ⟨by simp, by simp, by simp⟩, State.sameStorage_of_stor_eq (by simp), ?_⟩
    rw [if_neg (ne_false_of_eq_true hp), if_neg (not_lt.2 hu)]
    refine ⟨by simp, by simpa using s.consume_indices 4, fun b hb => ?_,
      fun _ _ _ => ⟨⟨_, State.answers_reply (by simp) _ _ _⟩, ?_⟩⟩
    · exact absurd ((wordOfRead_eq_append s.cfg s.stor s.ridx hb).symm.trans hv) (Option.some_ne_none _)
    · simp [FaultRecord.add]

end Sys2Proof.Machine

/-! # Proofs of the family 41_read: STORAGE_READ -/

namespace Sys2Proof.Machine

/-- Liveness of an offset of storage, with the differences written on natural numbers (R12, R26). -/
theorem State.isLive_iff_mod {s : State} {a : Nat} (hr : s.ridx < s.cfg.cap) (hw : s.widx < s.cfg.cap)
    (ha : a < s.cfg.cap) :
    s.isLive a = true ↔ (a + s.cfg.cap - s.ridx) % s.cfg.cap < (s.widx + s.cfg.cap - s.ridx) % s.cfg.cap := by
  rw [State.isLive, live, decide_eq_true_iff, modDiff_eq_mod s.cfg ha hr, used_eq_mod s.cfg hr hw]

/-- An empty buffer has no live byte. -/
theorem ridx_ne_widx_of_live (c : Config) {r w a : Nat} (hr : r < c.cap) (hw : w < c.cap) (hl : live c r w a = true) :
    r ≠ w := by
  rw [live, decide_eq_true_iff] at hl
  exact (used_eq_zero_iff c hr hw).not.1 (Nat.ne_zero_of_lt hl)

/-- No command of the PRODUCER port changes a live byte: PUSH_WORD writes free space, STORAGE_WRITE refuses a live offset, and
the others do not write storage (R80, R92, R104). -/
theorem exec_producer_keeps_live {i : Instr} {s t : State} {a : Nat} (hs : s.Inv) (hl : s.isLive a = true)
    (hp : i.port = .producer) (h : exec i s = .next t) : t.byteAt a = s.byteAt a := by
  obtain ⟨hr, hw, -⟩ := hs
  cases i with
  | init => cases hp
  | pushWord v =>
    rcases execPushWord_cases v s with ⟨hc, _⟩ | ⟨_, _, he⟩ | ⟨_, hle, he⟩
    · exact absurd hc (ridx_ne_widx_of_live s.cfg hr hw hl)
    · cases he.symm.trans h
      rfl
    · cases he.symm.trans h
      exact read_memWrite_word_of_live s.cfg s.stor v hr hw hle hl
  | storageWrite x b =>
    rcases execStorageWrite_cases x b s with ⟨_, he⟩ | ⟨_, _, he⟩ | ⟨_, hfree, he⟩ <;> cases he.symm.trans h
    · rfl
    · rfl
    · refine Memory.read_write_other s.stor _ _ _ fun hax => ?_
      exact Bool.false_ne_true (hfree.symm.trans (hax ▸ hl))
  | registerWrites _ | contigSpaceAvailable _ | spaceAvailable _ | registerReads _ | contigSpaceUsed _ | spaceUsed _
  | storageRead _ | popWord | getState _ =>
    rw [State.byteAt_eq, State.byteAt_eq, onlyThreeCommandsWriteStorage _ s t h (by simp [Instr.opcode])]

/-- A byte zero-extended to a word. -/
theorem setWidth_byte_eq_append (b : Byte) : b.setWidth 32 = 0#24 ++ b := BitVec.setWidth_eq_append (by decide)

/-- Settles O29, by the four cases of STORAGE_READ. -/
theorem storageReadResult : Obligations.StorageReadResult := by
  intro s a hs
  refine ⟨encode_of_bdata_zero rfl, fun i u _ hl hp h => exec_producer_keeps_live hs hl hp h, ?_⟩
  obtain ⟨hr, hw, -⟩ := hs
  rcases execStorageRead_cases a s with ⟨ha, he⟩ | ⟨ha, hl, he⟩ | ⟨b, ha, hl, hb, he⟩ | ⟨ha, hl, hb, he⟩ <;>
    refine ⟨_, he, ⟨rfl, rfl, rfl⟩, fun _ => rfl, rfl, rfl, ?_⟩
  · rw [if_pos ha]
    exact ⟨rfl, rfl, rfl, rfl⟩
  · have hfree := (State.isLive_iff_mod hr hw ha).not.1 (ne_true_of_eq_false hl)
    rw [if_neg (not_le.2 ha), if_pos (not_lt.1 hfree)]
    exact ⟨rfl, rfl, rfl, rfl⟩
  · have hlive := (State.isLive_iff_mod hr hw ha).1 hl
    rw [if_neg (not_le.2 ha), if_neg (not_le.2 hlive)]
    refine ⟨rfl, fun b' hb' => ⟨?_, rfl, rfl⟩, fun hnone => ?_⟩
    · rw [← Option.some.inj (hb.symm.trans hb'), ← setWidth_byte_eq_append]
      rfl
    · exact absurd (hb.symm.trans hnone) (Option.some_ne_none b)
  · have hlive := (State.isLive_iff_mod hr hw ha).1 hl
    rw [if_neg (not_le.2 ha), if_neg (not_le.2 hlive)]
    refine ⟨rfl, fun b hb' => ?_, fun _ => ⟨⟨_, rfl⟩, rfl⟩⟩
    exact absurd (hb'.symm.trans hb) (Option.some_ne_none b)

end Sys2Proof.Machine

/-! # Proofs of the family 42_direct_access: the four space queries -/

namespace Sys2Proof.Machine

section
variable (c : Config)

/-- `contig_avail` with `EFF_CAP` written as `CAP - 1` (R8, R28). -/
theorem contigAvail_eq (r w : Nat) :
    contigAvail c r w = if r ≤ w then if r = 0 then c.cap - 1 - w else c.cap - w else r - w - 1 := rfl

theorem avail_lt (r w : Nat) : avail c r w < c.cap := by
  have h8 := c.eight_le_cap
  rw [avail, Config.effCap_eq]
  omega

theorem contigAvail_lt {r w : Nat} (hr : r < c.cap) (hw : w < c.cap) : contigAvail c r w < c.cap :=
  (contigAvail_le_avail c hr hw).trans_lt (avail_lt c r w)

theorem contigUsed_lt {r w : Nat} (hr : r < c.cap) (hw : w < c.cap) : contigUsed c r w < c.cap :=
  (contigUsed_le_used c hr hw).trans_lt (used_lt c hr hw)

end

/-- The command of an instruction without operands is OP alone (R61, R64). -/
theorem encode_of_no_operands {i : Instr} (hb : i.bdata = 0#8) (ha : i.arg = 0#32) :
    encode i = (i.port, i.opcode.bits.setWidth 64) := by
  have hword (b : BitVec 4) : 0#32 ++ b.setWidth 32 = b.setWidth 64 := by revert b; decide
  rw [encode_of_bdata_zero hb, ha, hword]

/-- A count below `CAP` fits VALUE, so a query responds with the whole of it and changes nothing else (R54). -/
theorem answerCount_value {s : State} {k : Nat} (p : Port) (hk : k < s.cfg.cap) :
    ∃ v, answerCount p k s = .next (s.plusReply p .ok v) ∧ v.toNat = k :=
  ⟨_, rfl, toNat_ofNat_of_lt_cap hk⟩

/-- Settles O33: the branches of R28 are those of `contigAvail`. -/
theorem contigSpaceAvailableResult : Obligations.ContigSpaceAvailableResult := by
  rintro s p ⟨hr, hw, -⟩
  rw [← contigAvail_eq s.cfg s.ridx s.widx]
  exact ⟨encode_of_no_operands rfl rfl, answerCount_value p (contigAvail_lt s.cfg hr hw)⟩

/-- Settles O34: the branches of R29 are those of `contigUsed`. -/
theorem contigSpaceUsedResult : Obligations.ContigSpaceUsedResult := by
  rintro s p ⟨hr, hw, -⟩
  rw [← contigUsed]
  exact ⟨encode_of_no_operands rfl rfl, answerCount_value p (contigUsed_lt s.cfg hr hw)⟩

/-- Settles O35. -/
theorem spaceAvailableResult : Obligations.SpaceAvailableResult := by
  rintro s p ⟨hr, hw, -⟩
  rw [← avail_eq_mod s.cfg hr hw]
  exact ⟨encode_of_no_operands rfl rfl, answerCount_value p (avail_lt s.cfg s.ridx s.widx)⟩

/-- Settles O36. -/
theorem spaceUsedResult : Obligations.SpaceUsedResult := by
  rintro s p ⟨hr, hw, -⟩
  rw [← used_eq_mod s.cfg hr hw]
  exact ⟨encode_of_no_operands rfl rfl, answerCount_value p (used_lt s.cfg hr hw)⟩

end Sys2Proof.Machine

/-! # Proofs of the family 42_direct_access: the two commits and STORAGE_WRITE -/

namespace Sys2Proof.Machine

/-- Settles O30, by the two cases of REGISTER_WRITES. -/
theorem registerWritesResult : Obligations.RegisterWritesResult := by
  rintro s n -
  refine ⟨encode_of_bdata_zero rfl, ?_⟩
  rw [← contigAvail_eq s.cfg s.ridx s.widx]
  rcases execRegisterWrites_cases n s with ⟨hover, he⟩ | ⟨hfit, he⟩ <;>
    refine ⟨_, he, ⟨rfl, rfl, rfl⟩, fun _ => rfl, rfl, rfl, rfl, ?_⟩
  · rw [if_pos hover]
    exact ⟨rfl, rfl, rfl⟩
  · rw [if_neg (not_lt.2 hfit)]
    exact ⟨rfl, rfl, rfl⟩

theorem State.sameEnvironment_consume (s : State) (n : Nat) : s.sameEnvironment (s.consume n) :=
  ⟨s.consume_cfg n, s.consume_outstanding n, s.consume_events n⟩

/-- Settles O32, by the two cases of REGISTER_READS; the indices are those of `consume` in both. -/
theorem registerReadsResult : Obligations.RegisterReadsResult := by
  rintro s n -
  refine ⟨encode_of_bdata_zero rfl, ?_⟩
  rw [← contigUsed]
  rcases execRegisterReads_cases n s with ⟨hover, he⟩ | ⟨hfit, he⟩ <;>
    refine ⟨_, he, s.sameEnvironment_consume n.toNat, State.sameStorage_of_stor_eq (s.consume_stor n.toNat),
      s.consume_draws n.toNat, s.consume_indices n.toNat, ?_⟩
  · rw [if_pos hover]
    refine ⟨State.answers_reply (s.consume_replies n.toNat) _ _ _, ?_, ?_⟩
    · exact congrArg (errWith · .rovr) (s.consume_err n.toNat)
    · exact congrArg (FaultRecord.add · .readOverrun) (s.consume_faults n.toNat)
  · rw [if_neg (not_lt.2 hfit)]
    exact ⟨State.answers_reply (s.consume_replies n.toNat) _ _ _, s.consume_err n.toNat, s.consume_faults n.toNat⟩

/-- The command of STORAGE_WRITE: ARG, BDATA and OP with the reserved fields between them (R61, R64). -/
theorem encode_storageWrite (a : Word) (b : Byte) :
    encode (.storageWrite a b) = (.producer, a ++ 0#16 ++ b ++ 0x05#8) := by
  have hop : 0x05#8 = 0#4 ++ Opcode.storageWrite.bits := by decide
  rw [hop, BitVec.append_assoc, BitVec.append_assoc]
  rfl

/-- Settles O31, by the three cases of STORAGE_WRITE. -/
theorem storageWriteResult : Obligations.StorageWriteResult := by
  rintro s a b ⟨hr, hw, -⟩
  refine ⟨encode_storageWrite a b, ?_⟩
  rcases execStorageWrite_cases a b s with ⟨ha, he⟩ | ⟨ha, hl, he⟩ | ⟨ha, hl, he⟩ <;>
    refine ⟨_, he, ⟨rfl, rfl, rfl⟩, rfl, rfl, rfl, ?_⟩
  · rw [if_pos ha]
    exact ⟨rfl, fun _ => rfl, rfl, rfl⟩
  · have hlive := (State.isLive_iff_mod hr hw ha).1 hl
    rw [if_neg (not_le.2 ha), if_pos hlive]
    exact ⟨rfl, fun _ => rfl, rfl, rfl⟩
  · have hfree := (State.isLive_iff_mod hr hw ha).not.1 (ne_true_of_eq_false hl)
    rw [if_neg (not_le.2 ha), if_neg hfree]
    exact ⟨rfl, rfl, rfl, Memory.read_write_self s.stor _ b, fun x hx => Memory.read_write_other s.stor _ x b hx⟩

end Sys2Proof.Machine

/-! # Proofs of the family 43_state_and_control: the invariant -/

namespace Sys2Proof.Machine

section
variable {s : State}

/-! What each operation of the instructions does to the invariant. It speaks of the parameters, the indices, the storage and
ERR only: where nothing else changes, `hs` itself is the proof. -/

theorem State.inv_clear (s : State) : s.clear.Inv := by
  have h0 : 0 < s.cfg.cap := Nat.lt_of_lt_of_le (by decide) s.cfg.eight_le_cap
  exact ⟨h0, h0, List.Pairwise.nil, fun _ hx => absurd hx List.not_mem_nil, by simp⟩

theorem State.inv_reply (hs : s.Inv) (p : Port) (st : Status) (v : Word) : (s.reply p st v).Inv := hs

/-- Reporting an error sets no reserved bit of ERR (R24, R151). -/
theorem State.inv_report (hs : s.Inv) (p : Port) (b : ErrBit) (f : FaultReason) :
    (((s.setErr b).raise f).reply p .error 0#32).Inv := by
  obtain ⟨hr, hw, hwf, hin, herr⟩ := hs
  exact ⟨hr, hw, hwf, hin, (errWith_reserved s.err b).trans herr⟩

theorem State.inv_produce (hs : s.Inv) (n : Nat) : (s.produce n).Inv := by
  obtain ⟨hr, _, hwf, hin, herr⟩ := hs
  exact ⟨hr, adv_lt s.cfg s.widx n, hwf, hin, herr⟩

theorem State.inv_consume (hs : s.Inv) (n : Nat) : (s.consume n).Inv := by
  obtain ⟨hr, hw, hwf, hin, herr⟩ := hs
  have h0 : 0 < s.cfg.cap := Nat.zero_lt_of_lt hr
  unfold State.consume
  split_ifs
  · exact ⟨h0, h0, hwf, hin, herr⟩
  · exact ⟨adv_lt s.cfg s.ridx n, hw, hwf, hin, herr⟩

/-- An offset that STORAGE_WRITE accepts lies within storage. -/
theorem State.inv_write (hs : s.Inv) {a : Nat} (ha : a < s.cfg.cap) (b : Byte) :
    (s.setStor (s.stor.write a b)).Inv := by
  obtain ⟨hr, hw, hwf, hin, herr⟩ := hs
  exact ⟨hr, hw, Memory.write_wf hwf a b, Memory.write_within hin ha b, herr⟩

theorem State.inv_memWrite (hs : s.Inv) (a : Nat) (bs : List Byte) : (s.setStor (memWrite s.cfg s.stor a bs)).Inv := by
  obtain ⟨hr, hw, hwf, hin, herr⟩ := hs
  exact ⟨hr, hw, memWrite_wf s.cfg hwf a bs, memWrite_within s.cfg hin a bs, herr⟩

/-- The empty reset of PUSH_WORD leaves the write index after the word, at 4. -/
theorem State.inv_restart (hs : s.Inv) : ((s.setRidx 0).setWidx 4).Inv := by
  obtain ⟨_, _, hwf, hin, herr⟩ := hs
  have h4 : 4 < s.cfg.cap := Nat.lt_of_lt_of_le (by decide) s.cfg.eight_le_cap
  exact ⟨Nat.zero_lt_of_lt h4, h4, hwf, hin, herr⟩

end

/-- Every instruction keeps the invariant. -/
theorem exec_keeps_inv {i : Instr} {s t : State} (hs : s.Inv) (h : exec i s = .next t) : t.Inv := by
  cases i with
  | init => cases h; exact s.inv_clear
  | contigSpaceAvailable p | spaceAvailable p | contigSpaceUsed p | spaceUsed p | getState p => cases h; exact hs
  | pushWord v =>
    rcases execPushWord_cases v s with ⟨_, he⟩ | ⟨_, _, he⟩ | ⟨_, _, he⟩ <;> cases he.symm.trans h
    · exact State.inv_restart (s := s.setStor _) (State.inv_memWrite hs 0 (bytesOf v))
    · exact hs
    · exact State.inv_produce (State.inv_memWrite hs s.widx (bytesOf v)) 4
  | registerWrites n =>
    rcases execRegisterWrites_cases n s with ⟨_, he⟩ | ⟨_, he⟩ <;> cases he.symm.trans h
    · exact State.inv_report (State.inv_produce hs n.toNat) _ _ _
    · exact State.inv_reply (State.inv_produce hs n.toNat) _ _ _
  | storageWrite a b =>
    rcases execStorageWrite_cases a b s with ⟨_, he⟩ | ⟨_, _, he⟩ | ⟨ha, _, he⟩ <;> cases he.symm.trans h
    · exact State.inv_report hs _ _ _
    · exact State.inv_report hs _ _ _
    · exact State.inv_write hs ha b
  | registerReads n =>
    rcases execRegisterReads_cases n s with ⟨_, he⟩ | ⟨_, he⟩ <;> cases he.symm.trans h
    · exact State.inv_report (State.inv_consume hs n.toNat) _ _ _
    · exact State.inv_reply (State.inv_consume hs n.toNat) _ _ _
  | storageRead a =>
    rcases execStorageRead_cases a s with ⟨_, he⟩ | ⟨_, _, he⟩ | ⟨_, _, _, _, he⟩ | ⟨_, _, _, he⟩ <;>
      cases he.symm.trans h
    · exact State.inv_report hs _ _ _
    · exact State.inv_report hs _ _ _
    · exact hs
    · exact hs
  | popWord =>
    rcases execPopWord_cases s with ⟨_, he⟩ | ⟨_, _, he⟩ | ⟨_, _, _, _, he⟩ | ⟨_, _, _, he⟩ <;>
      cases he.symm.trans h
    · exact State.inv_report hs _ _ _
    · exact hs
    · exact State.inv_reply (State.inv_consume hs 4) _ _ _
    · exact State.inv_reply (State.inv_consume (s := s.unwrittenRead) hs 4) _ _ _

/-- Every command keeps the invariant, legal or not. -/
theorem runCommand_keeps_inv {p : Port} {w : CmdWord} {s t : State} (hs : s.Inv) (h : runCommand p w s = .next t) :
    t.Inv := by
  unfold runCommand at h
  split at h
  · cases h
    exact State.inv_report hs _ _ _
  · exact exec_keeps_inv hs h

/-- Settles O16, by the cases of a step. -/
theorem stepKeepsInvariant : Obligations.StepKeepsInvariant := by
  intro s t hs h
  rcases step_cases s with ⟨_, he⟩ | ⟨p, w, es, _, he⟩ | ⟨p, es, _, _, he⟩ | ⟨p, w, es, _, _, he⟩ | ⟨es, _, he⟩
  · cases he.symm.trans h
    exact hs
  · rcases issueCommand_cases p w (s.setEvents es) with ⟨_, hi⟩ | ⟨_, _, hi⟩ <;> cases (he.trans hi).symm.trans h
    exact hs
  · cases he.symm.trans h
    exact hs
  · exact runCommand_keeps_inv (s := (s.setEvents es).setOutstanding p none) hs (he.symm.trans h)
  · cases he.symm.trans h
    exact s.inv_clear

/-- Settles O17: the state after reset is a cleared one. -/
theorem launchStateMeetsInvariants : Obligations.LaunchStateMeetsInvariants := ⟨State.reset.inv_clear, fun _ => rfl⟩

end Sys2Proof.Machine

/-! # Proofs of the family 43_state_and_control: the live bytes as a queue -/

namespace Sys2Proof.Machine

section
variable (c : Config) (m : Memory)

/-- A MemRead is two adjacent ones, the second one going on where the first one ended. -/
theorem memRead_add (a i j : Nat) : memRead c m a (i + j) = memRead c m a i ++ memRead c m (adv c a i) j := by
  simp [memRead, List.range_add, adv_adv, Function.comp_def]

theorem memRead_drop (a : Nat) {i n : Nat} (h : i ≤ n) :
    (memRead c m a n).drop i = memRead c m (adv c a i) (n - i) := by
  obtain ⟨j, rfl⟩ := Nat.exists_eq_add_of_le h
  rw [memRead_add, List.drop_left' (length_memRead c m a i), Nat.add_sub_cancel_left]

theorem memRead_take (a : Nat) {i n : Nat} (h : i ≤ n) : (memRead c m a n).take i = memRead c m a i := by
  obtain ⟨j, rfl⟩ := Nat.exists_eq_add_of_le h
  rw [memRead_add, List.take_left' (length_memRead c m a i)]

/-- MemRead of a word just stored gives its bytes, least significant first (R14, R42). -/
theorem memRead_memWrite_word (a : Nat) (v : Word) :
    memRead c (memWrite c m a (bytesOf v)) a 4 = (List.range 4).map (fun k => some (v.extractLsb' (8 * k) 8)) :=
  List.map_congr_left fun _ hk => read_memWrite_word_at c m a v (List.mem_range.1 hk)

/-- An advance of the read index by no more than `used` bytes takes that many from `used`. -/
theorem used_adv_ridx {r w n : Nat} (hr : r < c.cap) (hw : w < c.cap) (hn : n ≤ used c r w) :
    used c (adv c r n) w = used c r w - n := by
  have hu := used_lt c hr hw
  rw [used_eq c (adv_lt c r n) hw, adv_eq c hr (by omega)]
  rw [used_eq c hr hw] at hn ⊢
  split_ifs at hn ⊢ <;> omega

end

section
variable {s : State}

theorem State.contents_of_empty (h : s.ridx = s.widx) : s.contents = [] := by
  have hu : used s.cfg s.ridx s.widx = 0 := by simp [used, modDiff, h]
  rw [State.contents, State.usedBytes, hu]
  rfl

theorem State.contents_reply (s : State) (p : Port) (st : Status) (v : Word) : (s.reply p st v).contents = s.contents := rfl

theorem State.contents_unwrittenRead (s : State) : s.unwrittenRead.contents = s.contents := rfl

theorem State.length_contents (s : State) : s.contents.length = used s.cfg s.ridx s.widx :=
  length_memRead s.cfg s.stor s.ridx s.usedBytes

/-- A consumption inside the live bytes either uses them up, and both indices are reset, or advances the read index. -/
theorem State.consume_cases (hr : s.ridx < s.cfg.cap) (hw : s.widx < s.cfg.cap) {n : Nat}
    (hn : n ≤ used s.cfg s.ridx s.widx) :
    (n = used s.cfg s.ridx s.widx ∧ s.consume n = (s.setRidx 0).setWidx 0) ∨
    (n < used s.cfg s.ridx s.widx ∧ s.consume n = s.setRidx (adv s.cfg s.ridx n)) := by
  have hiff := adv_eq_widx_iff s.cfg hr hw (hn.trans_lt (used_lt s.cfg hr hw))
  unfold State.consume
  split_ifs with h
  · exact .inl ⟨hiff.1 h, rfl⟩
  · exact .inr ⟨lt_of_le_of_ne hn (mt hiff.2 h), rfl⟩

/-- Consuming `n` bytes takes them from the front of the queue. -/
theorem State.contents_consume (hr : s.ridx < s.cfg.cap) (hw : s.widx < s.cfg.cap) {n : Nat}
    (hn : n ≤ used s.cfg s.ridx s.widx) : (s.consume n).contents = s.contents.drop n := by
  rcases State.consume_cases hr hw hn with ⟨hall, he⟩ | ⟨_, he⟩ <;> rw [he]
  · rw [State.contents_of_empty rfl, List.drop_of_length_le (s.length_contents.trans hall.symm).le]
  · have hused : (s.setRidx (adv s.cfg s.ridx n)).usedBytes = s.usedBytes - n := used_adv_ridx s.cfg hr hw hn
    rw [State.contents, hused, State.contents, memRead_drop s.cfg s.stor s.ridx (n := s.usedBytes) hn]
    rfl

/-- A commit of `n` bytes that fits `avail` appends the bytes that stand at the write index. -/
theorem State.contents_produce (hr : s.ridx < s.cfg.cap) (hw : s.widx < s.cfg.cap) {n : Nat}
    (hn : n ≤ avail s.cfg s.ridx s.widx) :
    (s.produce n).contents = s.contents ++ memRead s.cfg s.stor s.widx n := by
  have hused : (s.produce n).usedBytes = s.usedBytes + n := used_adv_widx s.cfg hr hw hn
  have hend : adv s.cfg s.ridx s.usedBytes = s.widx := (adv_eq_widx_iff s.cfg hr hw (used_lt s.cfg hr hw)).2 rfl
  have hread := memRead_add s.cfg s.stor s.ridx s.usedBytes n
  rw [hend] at hread
  rw [State.contents, hused]
  exact hread

/-- A change of free bytes does not show in the queue. -/
theorem State.contents_setStor (hr : s.ridx < s.cfg.cap) (hw : s.widx < s.cfg.cap) {m : Memory}
    (hm : s.agreesOnLive m) : (s.setStor m).contents = s.contents :=
  (memRead_congr_live s.cfg hr hw le_rfl hm).symm

/-- PUSH_WORD on an empty buffer leaves the word alone in the queue. -/
theorem State.contents_restart (s : State) (v : Word) :
    (((s.setStor (memWrite s.cfg s.stor 0 (bytesOf v))).setRidx 0).setWidx 4).contents =
      (List.range 4).map (fun k => some (v.extractLsb' (8 * k) 8)) := by
  have h4 : 4 < s.cfg.cap := Nat.lt_of_lt_of_le (by decide) s.cfg.eight_le_cap
  have hu : used s.cfg 0 4 = 4 := used_eq s.cfg (Nat.zero_lt_of_lt h4) h4
  rw [← memRead_memWrite_word s.cfg s.stor 0 v, State.contents, State.usedBytes]
  exact congrArg (memRead s.cfg _ 0) hu

/-- The storage bytes of an in-contract commit stand in one piece at the write index (R28). -/
theorem memRead_widx_of_contig (c : Config) (m : Memory) {r w n : Nat} (hr : r < c.cap)
    (hw : w < c.cap) (hn : n ≤ contigAvail c r w) :
    memRead c m w n = (List.range n).map (fun k => m.read (w + k)) := by
  refine List.map_congr_left fun k hk => ?_
  have hk' := List.mem_range.1 hk
  rw [contigAvail_eq] at hn
  rw [adv_of_lt c (by split_ifs at hn <;> omega)]

end

/-- Settles O51: each command is an append, a reset or no change of the queue. -/
theorem producerCommandsAppend : Obligations.ProducerCommandsAppend := by
  rintro i s t ⟨hr, hw, -⟩ h
  cases i with
  | registerReads n => trivial
  | popWord => trivial
  | init => cases h; exact State.contents_of_empty rfl
  | contigSpaceAvailable p | spaceAvailable p | contigSpaceUsed p | spaceUsed p | getState p => cases h; rfl
  | pushWord v =>
    show t.contents = if _ then _ else _
    rcases execPushWord_cases v s with ⟨hc, he⟩ | ⟨hc, hlt, he⟩ | ⟨hc, hle, he⟩ <;> cases he.symm.trans h
    · rw [if_neg (fun hfull => hfull.1 hc), State.contents_of_empty hc]
      exact s.contents_restart v
    · rw [if_pos ⟨hc, hlt⟩]
      rfl
    · have hlive : s.agreesOnLive (memWrite s.cfg s.stor s.widx (bytesOf v)) := fun a _ hl =>
        (read_memWrite_word_of_live s.cfg s.stor v hr hw hle hl).symm
      rw [if_neg (fun hfull => not_lt.2 hle hfull.2), ← State.contents_setStor hr hw hlive,
        ← memRead_memWrite_word s.cfg s.stor s.widx v]
      exact State.contents_produce (s := s.setStor (memWrite s.cfg s.stor s.widx (bytesOf v))) hr hw hle
  | registerWrites n =>
    intro hn
    rcases execRegisterWrites_cases n s with ⟨hover, _⟩ | ⟨_, he⟩
    · exact absurd hn (not_le.2 hover)
    · cases he.symm.trans h
      have hbytes := memRead_widx_of_contig s.cfg s.stor hr hw hn
      exact (State.contents_produce hr hw (hn.trans (contigAvail_le_avail s.cfg hr hw))).trans
        (congrArg (s.contents ++ ·) hbytes)
  | storageWrite a b =>
    rcases execStorageWrite_cases a b s with ⟨_, he⟩ | ⟨_, _, he⟩ | ⟨_, hfree, he⟩ <;> cases he.symm.trans h
    · rfl
    · rfl
    · refine State.contents_setStor hr hw fun x _ hl => (Memory.read_write_other s.stor _ x b ?_).symm
      rintro rfl
      exact Bool.false_ne_true (hfree.symm.trans hl)
  | storageRead a =>
    rcases execStorageRead_cases a s with ⟨_, he⟩ | ⟨_, _, he⟩ | ⟨_, _, _, _, he⟩ | ⟨_, _, _, he⟩ <;>
      cases he.symm.trans h <;> rfl

/-- A block without POP_WORD reports it as an illegal command (R66, condition 2). -/
theorem execPopWord_without {s : State} (hp : s.cfg.hasPopWord = false) :
    execPopWord s = .next (((s.setErr .ill).raise .illegalCommand).reply .consumer .error 0#32) := if_pos hp

/-- What POP_WORD does where the block has it: NODATA, or four bytes consumed and a VALUE, which is the word of the four
bytes where they all hold a value. -/
theorem execPopWord_of_hasPopWord {s t : State} (hp : s.cfg.hasPopWord = true) (h : execPopWord s = .next t) :
    (used s.cfg s.ridx s.widx < 4 ∧ t = s.plusReply .consumer .nodata 0#32) ∨
    (4 ≤ used s.cfg s.ridx s.widx ∧ ∃ v u, t = u.reply .consumer .ok v ∧
      (u = s.consume 4 ∨ u = (s.consume 4).unwrittenRead) ∧
      ∀ x, wordOfRead (memRead s.cfg s.stor s.ridx 4) = some x → v = x) := by
  rcases execPopWord_cases s with ⟨hp', _⟩ | ⟨_, hu, he⟩ | ⟨v, _, hu, hv, he⟩ | ⟨_, hu, hv, he⟩
  · exact absurd hp (ne_true_of_eq_false hp')
  · cases he.symm.trans h
    exact .inl ⟨hu, rfl⟩
  · cases he.symm.trans h
    exact .inr ⟨hu, v, _, rfl, .inl rfl, fun x hx => Option.some.inj (hv.symm.trans hx)⟩
  · rw [State.consume_unwrittenRead] at he
    cases he.symm.trans h
    exact .inr ⟨hu, _, _, rfl, .inr rfl, fun x hx => absurd (hx.symm.trans hv) (Option.some_ne_none x)⟩

/-- Settles O52: what is consumed is at the front of the queue, and the word of POP_WORD is read there. -/
theorem consumerCommandsTakeFromFront : Obligations.ConsumerCommandsTakeFromFront := by
  rintro s t ⟨hr, hw, -⟩
  constructor
  · intro n hn h
    rcases execRegisterReads_cases n s with ⟨hover, _⟩ | ⟨_, he⟩
    · exact absurd hn (not_le.2 hover)
    · cases he.symm.trans h
      rw [State.contents_reply]
      exact State.contents_consume hr hw (hn.trans (contigUsed_le_used s.cfg hr hw))
  · intro hp h
    rw [State.length_contents]
    rcases execPopWord_of_hasPopWord hp h with ⟨hu, rfl⟩ | ⟨hu, v, u, rfl, hcons, hword⟩
    · rw [if_pos hu]
      exact ⟨rfl, rfl⟩
    · rw [if_neg (not_lt.2 hu)]
      obtain ⟨hqueue, hreplies⟩ : u.contents = s.contents.drop 4 ∧ u.replies = s.replies := by
        rw [← State.contents_consume hr hw hu]
        rcases hcons with rfl | rfl
        · exact ⟨rfl, s.consume_replies 4⟩
        · exact ⟨State.contents_unwrittenRead _, (State.unwrittenRead_replies _).trans (s.consume_replies 4)⟩
      refine ⟨(u.contents_reply _ _ _).trans hqueue, v, State.answers_reply hreplies _ _ _,
        fun b0 b1 b2 b3 hfront => ?_⟩
      rw [State.contents, memRead_take s.cfg s.stor s.ridx (n := s.usedBytes) hu] at hfront
      rw [hword (wordOf b0 b1 b2 b3) (congrArg wordOfRead hfront), wordOf_eq_append]

/-- A byte of `s` is live when it is in the queue, so the live bytes are written when no entry of the queue is empty. -/
theorem State.liveBytesWritten_iff {s : State} (hs : s.Inv) : s.liveBytesWritten ↔ none ∉ s.contents := by
  obtain ⟨hr, hw, -⟩ := hs
  have hu := used_lt s.cfg hr hw
  rw [State.contents, memRead, List.mem_map]
  constructor
  · rintro hlive ⟨k, hk, hnone⟩
    exact hlive _ (adv_lt s.cfg _ k) (live_adv s.cfg hr hw (List.mem_range.1 hk)) hnone
  · intro hnone a ha hl hbyte
    have hk : modDiff s.cfg a s.ridx < used s.cfg s.ridx s.widx := of_decide_eq_true hl
    have hadv : adv s.cfg s.ridx (modDiff s.cfg a s.ridx) = a := (adv_eq_widx_iff s.cfg hr ha (hk.trans hu)).2 rfl
    exact hnone ⟨_, List.mem_range.2 hk, hadv.symm ▸ hbyte⟩

/-- Settles O55: every command but REGISTER_WRITES leaves the queue, drops from its front, or appends bytes that hold values. -/
theorem liveBytesStayWritten : Obligations.LiveBytesStayWritten := by
  intro i s t hs hwritten hop hcontract h
  rw [State.liveBytesWritten_iff hs] at hwritten
  rw [State.liveBytesWritten_iff (exec_keeps_inv hs h)]
  have happend := producerCommandsAppend i s t hs h
  obtain ⟨hreads, hpop⟩ := consumerCommandsTakeFromFront s t hs
  have hdrop (n : Nat) : none ∉ s.contents.drop n := fun hmem => hwritten (List.mem_of_mem_drop hmem)
  cases i with
  | registerWrites n => exact absurd rfl hop
  | init =>
    rw [happend]
    exact List.not_mem_nil
  | pushWord v =>
    rw [happend]
    split_ifs
    · exact hwritten
    · simp [hwritten]
  | registerReads n =>
    rw [hreads n (hcontract n rfl) h]
    exact hdrop n.toNat
  | popWord =>
    cases hp : s.cfg.hasPopWord with
    | false =>
      cases (execPopWord_without hp).symm.trans h
      exact hwritten
    | true =>
      have hqueue := hpop hp h
      split_ifs at hqueue
      · obtain ⟨hsame, -⟩ := hqueue
        rw [hsame]
        exact hwritten
      · obtain ⟨htail, -⟩ := hqueue
        rw [htail]
        exact hdrop 4
  | storageWrite a b | contigSpaceAvailable p | spaceAvailable p | contigSpaceUsed p | spaceUsed p | storageRead a
  | getState p =>
    rw [happend]
    exact hwritten

end Sys2Proof.Machine

/-! # Proofs of the family 43_state_and_control: GET_STATE and INIT -/

namespace Sys2Proof.Machine

/-- The fields of GET_STATE's VALUE, from bit 0 up (R130). -/
theorem stateValue_fields (c : Config) (e : BitVec 32) (o : Occupancy) :
    (stateValue c e o).extractLsb' 0 2 = o.code ∧ (stateValue c e o).extractLsb' 2 6 = 0#6 ∧
    (stateValue c e o).extractLsb' 8 6 = e.extractLsb' 0 6 ∧ (stateValue c e o).extractLsb' 14 2 = 0#2 ∧
    (stateValue c e o).extractLsb' 16 8 = BitVec.ofNat 8 c.log2Cap ∧
    (stateValue c e o).getLsbD 24 = c.hasPopWord ∧ (stateValue c e o).extractLsb' 25 7 = 0#7 := by
  refine ⟨?_, ?_, ?_, ?_, ?_, ?_, ?_⟩ <;> rw [stateValue]
  · iterate 5 rw [BitVec.extractLsb'_append_eq_of_add_le (by decide)]
    exact BitVec.extractLsb'_append_eq_right
  · iterate 5 rw [BitVec.extractLsb'_append_eq_of_add_le (by decide)]
    exact BitVec.extractLsb'_append_eq_left
  · iterate 4 rw [BitVec.extractLsb'_append_eq_of_add_le (by decide)]
    exact BitVec.extractLsb'_append_eq_left
  · iterate 3 rw [BitVec.extractLsb'_append_eq_of_add_le (by decide)]
    exact BitVec.extractLsb'_append_eq_left
  · iterate 2 rw [BitVec.extractLsb'_append_eq_of_add_le (by decide)]
    exact BitVec.extractLsb'_append_eq_left
  · rw [BitVec.getLsbD_append, if_pos (by decide), BitVec.getLsbD_append, if_neg (by decide)]
    cases c.hasPopWord <;> rfl
  · exact BitVec.extractLsb'_append_eq_left

/-- The code of the occupancy state (R30). -/
theorem code_occ (c : Config) (r w : Nat) :
    (occ c r w).code = if r = w then 0#2 else if avail c r w < 4 then 2#2 else 1#2 := by
  unfold occ
  split_ifs <;> rfl

/-- LOG2_CAP fits its field of 8 bits (R7, R130). -/
theorem log2Cap_lt (c : Config) : c.log2Cap < 2 ^ 8 := by
  have h := c.log2CapOver3.isLt
  rw [Config.log2Cap]
  omega

/-- Settles O37. -/
theorem getStateResult : Obligations.GetStateResult := by
  rintro s p ⟨hr, hw, -⟩
  rw [← avail_eq_mod s.cfg hr hw, ← code_occ]
  obtain ⟨hocc, hlow, herr, hmid, hcap, hpop, hhigh⟩ := stateValue_fields s.cfg s.err (occ s.cfg s.ridx s.widx)
  refine ⟨encode_of_no_operands rfl rfl, _, rfl, hocc, hlow, herr, hmid, ?_, hpop, hhigh⟩
  rw [hcap, BitVec.toNat_ofNat, Nat.mod_eq_of_lt (log2Cap_lt s.cfg)]

/-- Settles O38. -/
theorem initResult : Obligations.InitResult := fun _ =>
  ⟨rfl, _, rfl, ⟨rfl, rfl, rfl⟩, rfl, rfl, rfl, rfl, fun _ => rfl, rfl, rfl, rfl⟩

end Sys2Proof.Machine

/-! # Proofs of the family 43_state_and_control: the occupancy states -/

namespace Sys2Proof.Machine

section
variable (c : Config)

theorem occ_eq_partly_iff (r w : Nat) : occ c r w = .partly ↔ r ≠ w ∧ 4 ≤ avail c r w := by
  unfold occ
  split_ifs with h1 h2 <;> simp <;> omega

/-- After the first push only the least block is full: with `CAP = 8` three bytes are left (R132). -/
theorem occ_zero_four : occ c 0 4 = if c.cap = 8 then .full else .partly := by
  have h8 := c.eight_le_cap
  have hav : avail c 0 4 = c.cap - 1 - 4 := avail_eq c (by omega) (by omega)
  split_ifs with h
  · exact (occ_eq_full_iff c 0 4).2 ⟨by decide, by omega⟩
  · have h4 := c.four_dvd_cap
    exact (occ_eq_partly_iff c 0 4).2 ⟨by decide, by omega⟩

/-- A commit of `n` bytes that fits `avail` takes `n` from it. -/
theorem avail_adv_widx {r w n : Nat} (hr : r < c.cap) (hw : w < c.cap) (hn : n ≤ avail c r w) :
    avail c r (adv c w n) = avail c r w - n := by
  rw [avail, used_adv_widx c hr hw hn, ← Nat.sub_sub, ← avail]

/-- An advance of the read index by no more than `used` bytes frees that many. -/
theorem avail_adv_ridx {r w n : Nat} (hr : r < c.cap) (hw : w < c.cap) (hn : n ≤ used c r w) :
    avail c (adv c r n) w = avail c r w + n := by
  have hsum := used_add_avail c hr hw
  rw [avail, used_adv_ridx c hr hw hn]
  omega

/-- A commit that fits `avail` does not empty a buffer. -/
theorem occ_adv_ne_empty {r w n : Nat} (hr : r < c.cap) (hw : w < c.cap) (hne : r ≠ w) (hn : n ≤ avail c r w) :
    occ c r (adv c w n) ≠ .empty :=
  (occ_eq_empty_iff c _ _).not.2 (adv_ne_ridx c hr hw hne hn).symm

/-- A commit leaves an empty buffer empty only when it is by 0. -/
theorem occ_adv_of_empty {r w n : Nat} (hw : w < c.cap) (he : r = w) (hn : n ≤ avail c r w) :
    occ c r (adv c w n) = .empty ↔ n = 0 := by
  rw [occ_eq_empty_iff, he, eq_comm]
  exact adv_eq_self_iff c hw (hn.trans_lt (avail_lt c r w))

/-- A commit that fits `avail` leaves a full buffer full. -/
theorem occ_adv_of_full {r w n : Nat} (hr : r < c.cap) (hw : w < c.cap) (hf : occ c r w = .full)
    (hn : n ≤ avail c r w) : occ c r (adv c w n) = .full := by
  obtain ⟨hne, hlt⟩ := (occ_eq_full_iff c r w).1 hf
  refine (occ_eq_full_iff c r _).2 ⟨(adv_ne_ridx c hr hw hne hn).symm, ?_⟩
  rw [avail_adv_widx c hr hw hn]
  omega

end

section
variable {s : State}

/-- The occupancy state after the read index has advanced by `n`. -/
theorem State.occ_consume (hr : s.ridx < s.cfg.cap) (hw : s.widx < s.cfg.cap) {n : Nat}
    (hn : n ≤ used s.cfg s.ridx s.widx) :
    (occ (s.consume n).cfg (s.consume n).ridx (s.consume n).widx = .empty ↔ n = used s.cfg s.ridx s.widx) ∧
    (4 ≤ avail s.cfg s.ridx s.widx + n → occ (s.consume n).cfg (s.consume n).ridx (s.consume n).widx ≠ .full) := by
  rw [Ne, s.consume_cfg, occ_eq_empty_iff, occ_eq_full_iff]
  rcases State.consume_cases hr hw hn with ⟨hall, he⟩ | ⟨hlt, he⟩ <;> rw [he]
  · exact ⟨iff_of_true rfl hall, fun _ hfull => hfull.1 rfl⟩
  · have hiff := adv_eq_widx_iff s.cfg hr hw (hn.trans_lt (used_lt s.cfg hr hw))
    refine ⟨hiff, fun h4 hfull => not_lt.2 h4 ?_⟩
    rw [← avail_adv_ridx s.cfg hr hw hn]
    exact hfull.2

/-! The rows of R132 that are not plain. -/

variable {t : State}

theorem execPushWord_occ (hr : s.ridx < s.cfg.cap) (hw : s.widx < s.cfg.cap) {v : Word} (h : execPushWord v s = .next t) :
    (occ s.cfg s.ridx s.widx = .empty → occ t.cfg t.ridx t.widx = if s.cfg.cap = 8 then .full else .partly) ∧
    (occ s.cfg s.ridx s.widx = .partly → occ t.cfg t.ridx t.widx ≠ .empty) ∧
    (occ s.cfg s.ridx s.widx = .full → t = s.plusReply .producer .full 0#32) := by
  rw [occ_eq_empty_iff s.cfg, occ_eq_partly_iff s.cfg, occ_eq_full_iff s.cfg]
  rcases execPushWord_cases v s with ⟨hc, he⟩ | ⟨hc, hlt, he⟩ | ⟨hc, hle, he⟩ <;> cases he.symm.trans h
  · exact ⟨fun _ => occ_zero_four s.cfg, fun hp => absurd hc hp.1, fun hf => absurd hc hf.1⟩
  · exact ⟨fun hempty => absurd hempty hc, fun hp => absurd hlt (not_lt.2 hp.2), fun _ => rfl⟩
  · exact ⟨fun hempty => absurd hempty hc, fun _ => occ_adv_ne_empty s.cfg hr hw hc hle,
      fun hf => absurd hf.2 (not_lt.2 hle)⟩

theorem execRegisterWrites_occ (hr : s.ridx < s.cfg.cap) (hw : s.widx < s.cfg.cap) {n : Word}
    (hn : n.toNat ≤ contigAvail s.cfg s.ridx s.widx) (h : execRegisterWrites n s = .next t) :
    (occ s.cfg s.ridx s.widx = .empty → n = 0#32 → occ t.cfg t.ridx t.widx = .empty) ∧
    (occ s.cfg s.ridx s.widx = .empty → n ≠ 0#32 → occ t.cfg t.ridx t.widx ≠ .empty) ∧
    (occ s.cfg s.ridx s.widx = .partly → occ t.cfg t.ridx t.widx ≠ .empty) ∧
    (occ s.cfg s.ridx s.widx = .full → occ t.cfg t.ridx t.widx = .full) := by
  have hfit := hn.trans (contigAvail_le_avail s.cfg hr hw)
  have hzero : n = 0#32 ↔ n.toNat = 0 := BitVec.toNat_inj.symm
  rcases execRegisterWrites_cases n s with ⟨hover, _⟩ | ⟨_, he⟩
  · exact absurd hn (not_le.2 hover)
  · cases he.symm.trans h
    rw [occ_eq_empty_iff s.cfg]
    exact ⟨fun he h0 => (occ_adv_of_empty s.cfg hw he hfit).2 (hzero.1 h0),
      fun he hne => (occ_adv_of_empty s.cfg hw he hfit).not.2 (hzero.not.1 hne),
      fun hp => occ_adv_ne_empty s.cfg hr hw ((occ_eq_partly_iff s.cfg _ _).1 hp).1 hfit,
      fun hf => occ_adv_of_full s.cfg hr hw hf hfit⟩

theorem execRegisterReads_occ (hr : s.ridx < s.cfg.cap) (hw : s.widx < s.cfg.cap) {n : Word}
    (hn : n.toNat ≤ contigUsed s.cfg s.ridx s.widx) (h : execRegisterReads n s = .next t) :
    (occ s.cfg s.ridx s.widx = .empty → occ t.cfg t.ridx t.widx = .empty) ∧
    (occ s.cfg s.ridx s.widx = .partly → occ t.cfg t.ridx t.widx ≠ .full) := by
  have hlive := hn.trans (contigUsed_le_used s.cfg hr hw)
  rcases execRegisterReads_cases n s with ⟨hover, _⟩ | ⟨_, he⟩
  · exact absurd hn (not_le.2 hover)
  · cases he.symm.trans h
    rw [State.reply_cfg, State.reply_ridx, State.reply_widx]
    obtain ⟨hiff, hnotfull⟩ := State.occ_consume hr hw hlive
    rw [occ_eq_empty_iff s.cfg, occ_eq_partly_iff s.cfg, ← used_eq_zero_iff s.cfg hr hw]
    exact ⟨fun h0 => hiff.2 (by omega), fun hp => hnotfull (Nat.le_add_right_of_le hp.2)⟩

theorem execPopWord_occ (hr : s.ridx < s.cfg.cap) (hw : s.widx < s.cfg.cap) (hp : s.cfg.hasPopWord = true)
    (h : execPopWord s = .next t) :
    (occ s.cfg s.ridx s.widx = .empty → t = s.plusReply .consumer .nodata 0#32) ∧
    (occ s.cfg s.ridx s.widx = .partly → occ t.cfg t.ridx t.widx ≠ .full) ∧
    (s.usedBytes < 4 → t = s.plusReply .consumer .nodata 0#32) ∧
    (occ s.cfg s.ridx s.widx = .full →
      occ t.cfg t.ridx t.widx = .partly ∨ (occ t.cfg t.ridx t.widx = .empty ∧ s.cfg.cap = 8)) := by
  have h8 := s.cfg.eight_le_cap
  have hsum := used_add_avail s.cfg hr hw
  rw [Config.effCap_eq] at hsum
  rcases execPopWord_of_hasPopWord hp h with ⟨hu, rfl⟩ | ⟨hu, v, u, rfl, hcons, -⟩
  · refine ⟨fun _ => rfl, fun hpart => ?_, fun _ => rfl, fun hf => ?_⟩
    · exact fun hf => absurd (hpart.symm.trans hf) (by decide)
    · have hlt := ((occ_eq_full_iff s.cfg _ _).1 hf).2
      omega
  · have hocc : occ u.cfg u.ridx u.widx = occ (s.consume 4).cfg (s.consume 4).ridx (s.consume 4).widx := by
      rcases hcons with rfl | rfl
      · rfl
      · rw [State.unwrittenRead_cfg, State.unwrittenRead_ridx, State.unwrittenRead_widx]
    obtain ⟨hempty, hnotfull⟩ := State.occ_consume hr hw hu
    rw [← hocc] at hempty hnotfull
    have hne : occ u.cfg u.ridx u.widx ≠ .full := hnotfull (Nat.le_add_left 4 _)
    refine ⟨fun he => ?_, fun _ => hne, fun hlt => absurd hlt (not_lt.2 hu), fun hf => ?_⟩
    · have h0 := (used_eq_zero_iff s.cfg hr hw).2 ((occ_eq_empty_iff s.cfg _ _).1 he)
      omega
    · rw [State.reply_cfg, State.reply_ridx, State.reply_widx]
      have hlt := ((occ_eq_full_iff s.cfg _ _).1 hf).2
      cases ho : occ u.cfg u.ridx u.widx with
      | partly => exact .inl rfl
      | full => exact absurd ho hne
      | empty =>
        have h4 := hempty.1 ho
        exact .inr ⟨rfl, by omega⟩

end

/-- Settles O49: the rows of the four commands that move an index inside their contract, INIT, and those that move none. -/
theorem occupancyTransitions : Obligations.OccupancyTransitions := by
  rintro i s t ⟨hr, hw, -⟩ h hwrites hreads
  cases i with
  | init => cases h; rfl
  | pushWord v => exact execPushWord_occ hr hw h
  | registerWrites n => exact execRegisterWrites_occ hr hw (hwrites n rfl) h
  | registerReads n => exact execRegisterReads_occ hr hw (hreads n rfl) h
  | popWord => exact fun hp => execPopWord_occ hr hw hp h
  | contigSpaceAvailable p | spaceAvailable p | contigSpaceUsed p | spaceUsed p | getState p => cases h; rfl
  | storageWrite a b =>
    rcases execStorageWrite_cases a b s with ⟨_, he⟩ | ⟨_, _, he⟩ | ⟨_, _, he⟩ <;> cases he.symm.trans h <;> rfl
  | storageRead a =>
    rcases execStorageRead_cases a s with ⟨_, he⟩ | ⟨_, _, he⟩ | ⟨_, _, _, _, he⟩ | ⟨_, _, _, he⟩ <;>
      cases he.symm.trans h <;> rfl

/-- REGISTER_READS of all the live bytes, in one piece, resets both indices and reports nothing (R110). -/
theorem execRegisterReads_drain {s : State} (hr : s.ridx < s.cfg.cap) (hw : s.widx < s.cfg.cap) {n : Word}
    (hall : n.toNat = used s.cfg s.ridx s.widx) (hn : n.toNat ≤ contigUsed s.cfg s.ridx s.widx) :
    execRegisterReads n s = .next (((s.setRidx 0).setWidx 0).reply .consumer .ok 0#32) := by
  rw [execRegisterReads, countOf, if_neg (not_lt.2 hn)]
  rcases State.consume_cases hr hw hall.le with ⟨_, he⟩ | ⟨hlt, _⟩
  · rw [he]
    rfl
  · exact absurd hall hlt.ne

/-- A FULL state of the block with parameters `c`: every byte but the reserved one is live. -/
def State.filled (c : Config) : State := { State.reset with cfg := c, widx := c.cap - 1 }

theorem State.filled_inv (c : Config) : (State.filled c).Inv := by
  obtain ⟨h0, _, hwf, hin, herr⟩ := (State.filled c).inv_clear
  exact ⟨h0, Nat.sub_lt h0 Nat.one_pos, hwf, hin, herr⟩

/-- Settles O50: the first part drains `State.filled`, the second part is a row of `occupancyTransitions`. -/
theorem fullToEmptyInOneCommand : Obligations.FullToEmptyInOneCommand := by
  constructor
  · intro c
    obtain ⟨hr, hw, -⟩ := State.filled_inv c
    have h8 := c.eight_le_cap
    have hused : used c 0 (c.cap - 1) = c.cap - 1 := used_eq c hr hw
    have hcontig : contigUsed c 0 (c.cap - 1) = c.cap - 1 := if_pos (Nat.zero_le _)
    have havail : avail c 0 (c.cap - 1) = c.cap - 1 - (c.cap - 1) := avail_eq c hr hw
    have hn : (BitVec.ofNat 32 (c.cap - 1)).toNat = c.cap - 1 := toNat_ofNat_of_lt_cap hw
    have hfull : occ c 0 (c.cap - 1) = .full := (occ_eq_full_iff c _ _).2 ⟨by omega, by omega⟩
    exact ⟨State.filled c, _, BitVec.ofNat 32 (c.cap - 1), rfl, State.filled_inv c, hfull, (hn.trans hcontig.symm).le,
      execRegisterReads_drain hr hw (hn.trans hused.symm) (hn.trans hcontig.symm).le, rfl, rfl⟩
  · intro s t hs h16 hf h
    cases hp : s.cfg.hasPopWord with
    | false =>
      cases (execPopWord_without hp).symm.trans h
      exact fun he => absurd (hf.symm.trans he) (by decide)
    | true =>
      obtain ⟨-, -, -, hrow⟩ := occupancyTransitions .popWord s t hs h nofun nofun hp
      rcases hrow hf with ho | ⟨_, h8⟩
      · rw [ho]
        decide
      · omega

end Sys2Proof.Machine

/-! # Proofs of the family 60_exceptions: the ways a command ends, and the fault record -/

namespace Sys2Proof.Machine

/-- The fault reason that R151's table puts beside a bit of ERR. -/
def ErrBit.reason : ErrBit → FaultReason
  | .wovr => .writeOverrun
  | .rovr => .readOverrun
  | .swlive => .storageWriteLive
  | .srnl => .storageReadNotLive
  | .oor => .storageOutOfRange
  | .ill => .illegalCommand

/-- Nothing has been reported between `s` and `u`: they differ in the indices, the storage and the draws at most. -/
def State.sameRecord (s u : State) : Prop :=
  s.sameEnvironment u ∧ u.replies = s.replies ∧ u.err = s.err ∧ u.faults = s.faults

theorem State.sameRecord_refl (s : State) : s.sameRecord s := ⟨⟨rfl, rfl, rfl⟩, rfl, rfl, rfl⟩

/-! The operations on the indices and the storage report nothing. -/

section
variable {s u : State}

theorem State.sameRecord.setRidx (h : s.sameRecord u) (r : Nat) : s.sameRecord (u.setRidx r) := h
theorem State.sameRecord.setWidx (h : s.sameRecord u) (w : Nat) : s.sameRecord (u.setWidx w) := h
theorem State.sameRecord.setStor (h : s.sameRecord u) (m : Memory) : s.sameRecord (u.setStor m) := h
theorem State.sameRecord.produce (h : s.sameRecord u) (n : Nat) : s.sameRecord (u.produce n) := h

theorem State.sameRecord.consume (h : s.sameRecord u) (n : Nat) : s.sameRecord (u.consume n) := by
  simpa [State.sameRecord, State.sameEnvironment] using h

end

/-- The ways an instruction run in `s` can end (R151, R155). Before it responds it has reported nothing, and then it meets
one condition at most. -/
inductive ExecEnds (i : Instr) (s : State) : State → Prop where
  /-- INIT, which clears ERR (R131). -/
  | cleared (hi : i = .init) : ExecEnds i s (s.clear.reply i.port .ok 0#32)
  /-- A response that reports no condition. -/
  | answered {u : State} (hu : s.sameRecord u) (st : Status) (hst : st ≠ .error) (v : Word) :
      ExecEnds i s (u.reply i.port st v)
  /-- A read that met a byte without a value. -/
  | unwritten {u : State} (hu : s.sameRecord u) (v : Word) : ExecEnds i s (u.unwrittenRead.reply i.port .ok v)
  /-- An ERROR row of R151's table. -/
  | error {u : State} (hu : s.sameRecord u) (b : ErrBit) :
      ExecEnds i s (((u.setErr b).raise b.reason).reply i.port .error 0#32)

/-- Every instruction completes, from every state, in one of the ways of `ExecEnds`. -/
theorem exec_ends (i : Instr) (s : State) : ∃ t, exec i s = .next t ∧ ExecEnds i s t := by
  have hs := s.sameRecord_refl
  cases i with
  | init => exact ⟨_, rfl, .cleared rfl⟩
  | contigSpaceAvailable p | spaceAvailable p | contigSpaceUsed p | spaceUsed p | getState p =>
    exact ⟨_, rfl, .answered hs .ok nofun _⟩
  | pushWord v =>
    rcases execPushWord_cases v s with ⟨_, he⟩ | ⟨_, _, he⟩ | ⟨_, _, he⟩
    · exact ⟨_, he, .answered (((hs.setStor _).setRidx 0).setWidx 4) .ok nofun _⟩
    · exact ⟨_, he, .answered hs .full nofun _⟩
    · exact ⟨_, he, .answered ((hs.setStor _).produce 4) .ok nofun _⟩
  | registerWrites n =>
    rcases execRegisterWrites_cases n s with ⟨_, he⟩ | ⟨_, he⟩
    · exact ⟨_, he, .error (hs.produce _) .wovr⟩
    · exact ⟨_, he, .answered (hs.produce _) .ok nofun _⟩
  | storageWrite a b =>
    rcases execStorageWrite_cases a b s with ⟨_, he⟩ | ⟨_, _, he⟩ | ⟨_, _, he⟩
    · exact ⟨_, he, .error hs .oor⟩
    · exact ⟨_, he, .error hs .swlive⟩
    · exact ⟨_, he, .answered (hs.setStor _) .ok nofun _⟩
  | registerReads n =>
    rcases execRegisterReads_cases n s with ⟨_, he⟩ | ⟨_, he⟩
    · exact ⟨_, he, .error (hs.consume _) .rovr⟩
    · exact ⟨_, he, .answered (hs.consume _) .ok nofun _⟩
  | storageRead a =>
    rcases execStorageRead_cases a s with ⟨_, he⟩ | ⟨_, _, he⟩ | ⟨_, _, _, _, he⟩ | ⟨_, _, _, he⟩
    · exact ⟨_, he, .error hs .oor⟩
    · exact ⟨_, he, .error hs .srnl⟩
    · exact ⟨_, he, .answered hs .ok nofun _⟩
    · exact ⟨_, he, .unwritten hs _⟩
  | popWord =>
    rcases execPopWord_cases s with ⟨_, he⟩ | ⟨_, _, he⟩ | ⟨_, _, _, _, he⟩ | ⟨_, _, _, he⟩
    · exact ⟨_, he, .error hs .ill⟩
    · exact ⟨_, he, .answered hs .nodata nofun _⟩
    · exact ⟨_, he, .answered (hs.consume _) .ok nofun _⟩
    · rw [State.consume_unwrittenRead] at he
      exact ⟨_, he, .unwritten (hs.consume _) _⟩

/-- A bit of ERR and its reason are a row of R151's table. -/
theorem ErrBit.reason_mem (b : ErrBit) :
    (b, b.reason) ∈ [(ErrBit.wovr, FaultReason.writeOverrun), (.rovr, .readOverrun), (.swlive, .storageWriteLive),
      (.srnl, .storageReadNotLive), (.oor, .storageOutOfRange), (.ill, .illegalCommand)] := by
  cases b <;> decide

/-- Settles O22, by the ways an instruction ends. -/
theorem oneConditionPerCommand : Obligations.OneConditionPerCommand := by
  intro i s t h
  obtain ⟨t', he, hends⟩ := exec_ends i s
  cases he.symm.trans h
  cases hends with
  | cleared hi =>
    exact ⟨_, _, State.answers_reply rfl _ _ _, nofun, fun _ => ⟨.inr ⟨hi, rfl⟩, .inl rfl⟩⟩
  | answered hu st hst v =>
    obtain ⟨-, hreplies, herr, hfaults⟩ := hu
    exact ⟨_, _, State.answers_reply hreplies _ _ _, fun hst' => absurd hst' hst, fun _ => ⟨.inl herr, .inl hfaults⟩⟩
  | unwritten hu v =>
    obtain ⟨-, hreplies, herr, hfaults⟩ := hu
    exact ⟨_, _, State.answers_reply hreplies _ _ _, nofun,
      fun _ => ⟨.inl herr, .inr ⟨rfl, congrArg (FaultRecord.add · .unwrittenRead) hfaults⟩⟩⟩
  | error hu b =>
    obtain ⟨-, hreplies, herr, hfaults⟩ := hu
    exact ⟨_, _, State.answers_reply hreplies _ _ _,
      fun _ => ⟨rfl, b, b.reason, b.reason_mem, congrArg (errWith · b) herr, congrArg (FaultRecord.add · b.reason) hfaults⟩,
      fun hst => absurd rfl hst⟩

/-- Recording a reason removes none (R156). -/
theorem FaultRecord.has_add_of_has {r : FaultRecord} {f : FaultReason} (h : r.has f = true) (f' : FaultReason) :
    (r.add f').has f = true := by
  rw [FaultRecord.has_add, h, Bool.or_true]

/-- However an instruction ends, the environment is left as it was and the fault record has lost nothing. -/
theorem ExecEnds.frame {i : Instr} {s t : State} (h : ExecEnds i s t) :
    s.sameEnvironment t ∧ ∀ f, s.faults.has f = true → t.faults.has f = true := by
  cases h with
  | cleared _ => exact ⟨⟨rfl, rfl, rfl⟩, fun _ hf => hf⟩
  | answered hu _ _ _ =>
    obtain ⟨henv, -, -, hfaults⟩ := hu
    exact ⟨henv, fun _ hf => hfaults ▸ hf⟩
  | unwritten hu _ =>
    obtain ⟨henv, -, -, hfaults⟩ := hu
    exact ⟨henv, fun _ hf => FaultRecord.has_add_of_has (hfaults ▸ hf) _⟩
  | error hu _ =>
    obtain ⟨henv, -, -, hfaults⟩ := hu
    exact ⟨henv, fun _ hf => FaultRecord.has_add_of_has (hfaults ▸ hf) _⟩

/-- Every command completes, legal or not, with the environment as it was and no reason lost (R66, R156). -/
theorem runCommand_completes (p : Port) (w : CmdWord) (s : State) :
    ∃ t, runCommand p w s = .next t ∧ s.sameEnvironment t ∧ ∀ f, s.faults.has f = true → t.faults.has f = true := by
  cases hd : decode p w with
  | error r =>
    rw [runCommand, hd]
    exact ⟨_, rfl, ⟨rfl, rfl, rfl⟩, fun _ hf => FaultRecord.has_add_of_has hf _⟩
  | ok i =>
    obtain ⟨t, he, hends⟩ := exec_ends i s
    exact ⟨t, (runCommand_of_decode hd).trans he, hends.frame⟩

theorem Ports.set_none_of_get {q : Ports} {p : Port} (h : q.get p = none) : q.set p none = q := by
  obtain ⟨a, b, c⟩ := q
  cases p <;> cases h <;> rfl

theorem step_of_serve_idle {s : State} {p : Port} {es : List Event} (h : s.events = .serve p :: es)
    (hp : s.outstanding.get p = none) : step s = .next (s.setEvents es) := by
  rw [step, h]
  simp [serveCommand, hp]

/-- Settles O11: a port with a command outstanding runs it, and an idle one has nothing to free. -/
theorem servedCommandCompletes : Obligations.ServedCommandCompletes := by
  intro s p es hev
  cases hp : s.outstanding.get p with
  | none => exact ⟨_, step_of_serve_idle hev hp, rfl, (Ports.set_none_of_get hp).symm⟩
  | some w =>
    obtain ⟨t, he, ⟨-, hout, hevents⟩, -⟩ := runCommand_completes p w ((s.setEvents es).setOutstanding p none)
    exact ⟨t, (step_of_serve hev hp).trans he, hevents, hout⟩

/-- Settles O20, by the cases of a step: only a served command touches the fault record. -/
theorem faultRecordOnlyGrows : Obligations.FaultRecordOnlyGrows := by
  intro s t f h hf
  rcases step_cases s with ⟨_, he⟩ | ⟨p, w, es, _, he⟩ | ⟨p, es, _, _, he⟩ | ⟨p, w, es, _, _, he⟩ | ⟨es, _, he⟩
  · cases he.symm.trans h
    exact hf
  · rcases issueCommand_cases p w (s.setEvents es) with ⟨_, hi⟩ | ⟨_, _, hi⟩ <;> cases (he.trans hi).symm.trans h
    exact hf
  · cases he.symm.trans h
    exact hf
  · obtain ⟨t', he', -, hgrows⟩ := runCommand_completes p w ((s.setEvents es).setOutstanding p none)
    cases (he.trans he').symm.trans h
    exact hgrows f hf
  · cases he.symm.trans h
    exact hf

end Sys2Proof.Machine

/-! # Proofs of the family 70_reset_and_hazards: what every step keeps -/

namespace Sys2Proof.Machine

section
variable {s t : State}

theorem exec_sameEnvironment {i : Instr} (h : exec i s = .next t) : s.sameEnvironment t := by
  obtain ⟨t', he, hends⟩ := exec_ends i s
  cases he.symm.trans h
  exact hends.frame.1

theorem runCommand_sameEnvironment {p : Port} {w : CmdWord} (h : runCommand p w s = .next t) : s.sameEnvironment t := by
  obtain ⟨t', he, henv, -⟩ := runCommand_completes p w s
  cases he.symm.trans h
  exact henv

/-- What a completed step does to the block: nothing but to its ports and events, a command run, or hardware reset. -/
theorem step_block_cases (h : step s = .next t) :
    (∃ q es, t = { s with outstanding := q, events := es }) ∨
    (∃ p w es, runCommand p w ((s.setEvents es).setOutstanding p none) = .next t) ∨
    (∃ es, t = (s.setEvents es).hardwareReset) := by
  rcases step_cases s with ⟨_, he⟩ | ⟨p, w, es, _, he⟩ | ⟨p, es, _, _, he⟩ | ⟨p, w, es, _, _, he⟩ | ⟨es, _, he⟩
  · cases he.symm.trans h
    exact .inl ⟨s.outstanding, s.events, rfl⟩
  · rcases issueCommand_cases p w (s.setEvents es) with ⟨_, hi⟩ | ⟨_, _, hi⟩ <;> cases (he.trans hi).symm.trans h
    exact .inl ⟨s.outstanding.set p (some w), es, rfl⟩
  · cases he.symm.trans h
    exact .inl ⟨s.outstanding, es, rfl⟩
  · exact .inr (.inl ⟨p, w, es, he.symm.trans h⟩)
  · cases he.symm.trans h
    exact .inr (.inr ⟨es, rfl⟩)

end

/-- Settles O19: neither a command nor hardware reset writes the parameters. -/
theorem parametersNeverChange : Obligations.ParametersNeverChange := by
  intro s t h
  rcases step_block_cases h with ⟨q, es, rfl⟩ | ⟨p, w, es, hrun⟩ | ⟨es, rfl⟩
  · rfl
  · obtain ⟨hcfg, -, -⟩ := runCommand_sameEnvironment hrun
    exact hcfg
  · rfl

/-- What makes the indices equal between `s` and `t`, where they are: they are reset, they were equal and stay in place, or a
commit went over its bound (R102, R171). -/
def State.equalIndicesHaveCause (s t : State) : Prop :=
  t.ridx = t.widx →
    t.ridx = 0 ∨ (s.ridx = s.widx ∧ t.ridx = s.ridx) ∨ t.faults.has .writeOverrun = true

section
variable {s t : State}

theorem State.equalIndicesHaveCause_of_same (hr : t.ridx = s.ridx) (hw : t.widx = s.widx) : s.equalIndicesHaveCause t :=
  fun heq => .inr (.inl ⟨hr.symm.trans (heq.trans hw), hr⟩)

/-- An advance of the read index that lands on the write index leaves both at 0 (R90, R110). -/
theorem State.consume_ridx_eq_zero {n : Nat} (h : (s.consume n).ridx = (s.consume n).widx) : (s.consume n).ridx = 0 := by
  rw [State.consume_ridx, State.consume_widx] at h
  rw [State.consume_ridx]
  split_ifs at h ⊢
  · rfl
  · contradiction

theorem execPushWord_equalIndicesHaveCause (hs : s.Inv) {v : Word} (h : execPushWord v s = .next t) :
    s.equalIndicesHaveCause t := by
  obtain ⟨hr, hw, -⟩ := hs
  rcases execPushWord_cases v s with ⟨_, he⟩ | ⟨_, _, he⟩ | ⟨hne, hle, he⟩ <;> cases he.symm.trans h
  · exact fun _ => .inl rfl
  · exact State.equalIndicesHaveCause_of_same rfl rfl
  · exact fun heq => absurd heq.symm (adv_ne_ridx s.cfg hr hw hne hle)

/-- A commit inside its bound meets the read index only when it is by 0, from an empty buffer (R32). -/
theorem execRegisterWrites_equalIndicesHaveCause (hs : s.Inv) {n : Word} (h : execRegisterWrites n s = .next t) :
    s.equalIndicesHaveCause t := by
  obtain ⟨hr, hw, -⟩ := hs
  obtain ⟨hbound, -⟩ := commitBoundLaw s.cfg s.ridx s.widx n.toNat hr hw
  rcases execRegisterWrites_cases n s with ⟨_, he⟩ | ⟨hle, he⟩ <;> cases he.symm.trans h
  · exact fun _ => .inr (.inr rfl)
  · intro heq
    obtain ⟨-, hempty⟩ := hbound hle heq.symm
    exact .inr (.inl ⟨hempty, rfl⟩)

theorem exec_equalIndicesHaveCause (hs : s.Inv) {i : Instr} (h : exec i s = .next t) : s.equalIndicesHaveCause t := by
  rcases exec_indices h with ⟨hr, hw⟩ | ⟨_, hr, _⟩ | ⟨_, _, hr, _⟩ | ⟨hop, _⟩ | ⟨_, n, hr, hw⟩
  · exact State.equalIndicesHaveCause_of_same hr hw
  · exact fun _ => .inl hr
  · exact fun _ => .inl hr
  · cases i with
    | pushWord v => exact execPushWord_equalIndicesHaveCause hs h
    | registerWrites n => exact execRegisterWrites_equalIndicesHaveCause hs h
    | _ => simp [Instr.opcode] at hop
  · intro heq
    rw [hr, hw] at heq
    exact .inl (hr.trans (State.consume_ridx_eq_zero heq))

theorem runCommand_equalIndicesHaveCause (hs : s.Inv) {p : Port} {w : CmdWord} (h : runCommand p w s = .next t) :
    s.equalIndicesHaveCause t := by
  unfold runCommand at h
  split at h
  · cases h
    exact State.equalIndicesHaveCause_of_same rfl rfl
  · exact exec_equalIndicesHaveCause hs h

theorem step_equalIndicesHaveCause (hs : s.Inv) (h : step s = .next t) : s.equalIndicesHaveCause t := by
  rcases step_block_cases h with ⟨q, es, rfl⟩ | ⟨p, w, es, hrun⟩ | ⟨es, rfl⟩
  · exact State.equalIndicesHaveCause_of_same rfl rfl
  · exact runCommand_equalIndicesHaveCause (s := (s.setEvents es).setOutstanding p none) hs hrun
  · exact fun _ => .inl rfl

end

/-- Settles O18: equal indices that stay in place were accounted for before the step, and the fault record only grows. -/
theorem equalNonzeroIndicesNeedWriteOverrun : Obligations.EqualNonzeroIndicesNeedWriteOverrun := by
  intro s t hs hbefore h heq
  rcases step_equalIndicesHaveCause hs h heq with hzero | ⟨hempty, hkept⟩ | hover
  · exact .inl hzero
  · exact (hbefore hempty).imp hkept.trans (faultRecordOnlyGrows s t .writeOverrun h)
  · exact .inr hover

end Sys2Proof.Machine

/-! # Proofs of the family 70_reset_and_hazards: hardware reset and the launch state -/

namespace Sys2Proof.Machine

theorem step_of_reset {s : State} {es : List Event} (h : s.events = .reset :: es) :
    step s = .next (s.setEvents es).hardwareReset := by
  rw [step, h]

theorem FaultRecord.has_empty (f : FaultReason) : FaultRecord.empty.has f = false := by
  cases f <;> rfl

theorem Ports.get_idle (p : Port) : Ports.idle.get p = none := by
  cases p <;> rfl

/-- The occupancy state and the two level outputs of an empty buffer (R30, R33). -/
theorem State.outputs_of_empty {s : State} (h : s.ridx = s.widx) :
    occ s.cfg s.ridx s.widx = .empty ∧ s.emptyO = true ∧ s.fullO = false := by
  have hocc : occ s.cfg s.ridx s.widx = .empty := (occ_eq_empty_iff s.cfg _ _).2 h
  rw [State.emptyO, State.fullO, hocc]
  decide

/-- Settles O14. -/
theorem hardwareResetEvent : Obligations.HardwareResetEvent := by
  refine ⟨FaultRecord.has_empty, fun s es hev => ?_⟩
  obtain ⟨hocc, hempty, hfull⟩ := State.outputs_of_empty (s := (s.setEvents es).hardwareReset) rfl
  exact ⟨_, step_of_reset hev, rfl, rfl, fun _ => rfl, rfl, hocc, hempty, hfull, Ports.get_idle, rfl, rfl, rfl, rfl, rfl⟩

/-- Settles O15. -/
theorem launchState : Obligations.LaunchState := by
  obtain ⟨hocc, hempty, hfull⟩ := State.outputs_of_empty (s := State.reset) rfl
  exact ⟨rfl, rfl, fun _ => rfl, rfl, FaultRecord.has_empty, Ports.get_idle, hocc, hempty, hfull, rfl⟩

end Sys2Proof.Machine

/-! # Proofs of the family 70_reset_and_hazards: the commit race, and the views of the other side -/

namespace Sys2Proof.Machine

section
variable (c : Config)

/-- After the empty reset the whole effective capacity lies in one piece (R28). -/
theorem contigAvail_zero_zero : contigAvail c 0 0 = c.effCap := rfl

/-- The live offsets of a region that starts at 0 (R26). -/
theorem live_zero_iff {w a : Nat} (hw : w < c.cap) (ha : a < c.cap) : live c 0 w a = true ↔ a < w := by
  rw [live_iff c (Nat.zero_lt_of_lt hw) hw ha, if_pos (Nat.zero_le w)]
  exact and_iff_right (Nat.zero_le a)

/-- Consuming live bytes never shrinks the free bytes that lie in one piece (R178). -/
theorem contigAvail_le_adv_ridx {r w n : Nat} (hr : r < c.cap) (hw : w < c.cap) (hn : n ≤ used c r w) :
    contigAvail c r w ≤ contigAvail c (adv c r n) w := by
  have hcap : n ≤ c.cap := hn.trans (used_lt c hr hw).le
  rw [used_eq c hr hw] at hn
  rw [contigAvail_eq, contigAvail_eq, adv_eq c hr hcap]
  split_ifs at hn ⊢ <;> omega

/-- Committing bytes that fit `avail` never shrinks the live bytes that lie in one piece (R177). -/
theorem contigUsed_le_adv_widx {r w n : Nat} (hr : r < c.cap) (hw : w < c.cap) (hn : n ≤ avail c r w) :
    contigUsed c r w ≤ contigUsed c r (adv c w n) := by
  have hcap : n ≤ c.cap := hn.trans (avail_lt c r w).le
  rw [avail_eq c hr hw] at hn
  rw [contigUsed, contigUsed, adv_eq c hw hcap]
  split_ifs at hn ⊢ <;> omega

/-- The offsets CONTIG_SPACE_USED reports are live (R29). -/
theorem live_of_lt_contigUsed {r w k : Nat} (hr : r < c.cap) (hw : w < c.cap) (hk : k < contigUsed c r w) :
    live c r w (r + k) = true := by
  rw [contigUsed] at hk
  rw [live_iff c hr hw (by split_ifs at hk <;> omega)]
  split_ifs at hk ⊢ <;> omega

end

/-- REGISTER_WRITES by `m` on a state whose indices are both 0 commits the offsets below `m`, without a wrap (R102). -/
theorem execRegisterWrites_of_zero {s : State} (hr : s.ridx = 0) (hw : s.widx = 0) {m : Word} (hm : m.toNat ≤ s.cfg.effCap) :
    execRegisterWrites m s = .next ((s.setWidx m.toNat).reply .producer .ok 0#32) := by
  have h8 := s.cfg.eight_le_cap
  have hcap := s.cfg.effCap_eq
  have hadv : adv s.cfg 0 m.toNat = m.toNat := (adv_of_lt s.cfg (by omega)).trans (Nat.zero_add _)
  have hfit : m.toNat ≤ contigAvail s.cfg s.ridx s.widx := by rwa [hr, hw, contigAvail_zero_zero]
  rw [execRegisterWrites, countOf, if_neg (not_lt.2 hfit), State.produce, hw, hadv]
  rfl

/-- Settles O56: the drain resets both indices, so the whole of the commit is inside the bound it then has. -/
theorem commitRaceIsSilent : Obligations.CommitRaceIsSilent := by
  rintro s n m ⟨hr, hw, -⟩ hall hn hm
  have hlt : m.toNat < s.cfg.cap := Nat.lt_of_le_pred (Nat.zero_lt_of_lt hr) hm
  refine ⟨_, _, execRegisterReads_drain hr hw hall hn, rfl, execRegisterWrites_of_zero rfl rfl hm, ?_, rfl, rfl, rfl,
    fun a ha => live_zero_iff s.cfg hlt ha⟩
  exact State.answers_reply rfl _ _ _

/-- Where the write index keeps its value, the read index has advanced: a reset keeps it only at 0, which is then where the
advance lands. -/
theorem State.consume_ridx_of_widx_eq {s : State} {n : Nat} (h : (s.consume n).widx = s.widx) :
    (s.consume n).ridx = adv s.cfg s.ridx n := by
  rw [State.consume_widx] at h
  rw [State.consume_ridx]
  split_ifs at h ⊢ with hland
  · exact h.trans hland.symm
  · rfl

/-- What a consumer command inside its contract does to the indices: nothing, or it consumes live bytes (R90, R92, R110). -/
theorem exec_consumer_indices {i : Instr} {s t : State} (hs : s.Inv)
    (hop : i.opcode ∈ [Opcode.registerReads, .popWord, .storageRead])
    (hcontract : ∀ n, i = .registerReads n → n.toNat ≤ contigUsed s.cfg s.ridx s.widx) (h : exec i s = .next t) :
    (t.ridx = s.ridx ∧ t.widx = s.widx) ∨
    ∃ n ≤ used s.cfg s.ridx s.widx, t.ridx = (s.consume n).ridx ∧ t.widx = (s.consume n).widx := by
  obtain ⟨hr, hw, -⟩ := hs
  cases i with
  | registerReads n =>
    refine .inr ⟨n.toNat, (hcontract n rfl).trans (contigUsed_le_used s.cfg hr hw), ?_⟩
    rcases execRegisterReads_cases n s with ⟨_, he⟩ | ⟨_, he⟩ <;> cases he.symm.trans h <;> exact ⟨rfl, rfl⟩
  | popWord =>
    rcases execPopWord_cases s with ⟨_, he⟩ | ⟨_, _, he⟩ | ⟨_, _, hle, _, he⟩ | ⟨_, hle, _, he⟩
    · cases he.symm.trans h
      exact .inl ⟨rfl, rfl⟩
    · cases he.symm.trans h
      exact .inl ⟨rfl, rfl⟩
    · cases he.symm.trans h
      exact .inr ⟨4, hle, rfl, rfl⟩
    · rw [State.consume_unwrittenRead] at he
      cases he.symm.trans h
      exact .inr ⟨4, hle, (s.consume 4).unwrittenRead_ridx, (s.consume 4).unwrittenRead_widx⟩
  | storageRead a =>
    rcases execStorageRead_cases a s with ⟨_, he⟩ | ⟨_, _, he⟩ | ⟨_, _, _, _, he⟩ | ⟨_, _, _, he⟩ <;>
      cases he.symm.trans h <;> exact .inl ⟨rfl, rfl⟩
  | _ => simp [Instr.opcode] at hop

/-- Settles O57: with the write index left alone, the read index has advanced over live bytes. -/
theorem freeSpaceViewStaysValid : Obligations.FreeSpaceViewStaysValid := by
  intro i s t hs hop hcontract h hwidx
  obtain ⟨hcfg, -, -⟩ := exec_sameEnvironment h
  rw [hcfg, hwidx]
  rcases exec_consumer_indices hs hop hcontract h with ⟨hridx, -⟩ | ⟨n, hn, hridx, hw'⟩
  · rw [hridx]
  · obtain ⟨hr, hw, -⟩ := hs
    rw [hridx, State.consume_ridx_of_widx_eq (hw'.symm.trans hwidx)]
    exact contigAvail_le_adv_ridx s.cfg hr hw hn

/-- What a producer command inside its contract does to the indices of a non-empty buffer: it commits no more bytes than are
free, or none (R80, R102, R104). -/
theorem exec_producer_indices {i : Instr} {s t : State} (hs : s.Inv) (hne : s.ridx ≠ s.widx)
    (hop : i.opcode ∈ [Opcode.pushWord, .registerWrites, .storageWrite])
    (hcontract : ∀ n, i = .registerWrites n → n.toNat ≤ contigAvail s.cfg s.ridx s.widx) (h : exec i s = .next t) :
    t.ridx = s.ridx ∧ ∃ n ≤ avail s.cfg s.ridx s.widx, t.widx = adv s.cfg s.widx n := by
  obtain ⟨hr, hw, -⟩ := hs
  have hstay : ∃ n ≤ avail s.cfg s.ridx s.widx, s.widx = adv s.cfg s.widx n :=
    ⟨0, Nat.zero_le _, ((adv_eq_self_iff s.cfg hw (Nat.zero_lt_of_lt hr)).2 rfl).symm⟩
  cases i with
  | pushWord v =>
    rcases execPushWord_cases v s with ⟨hc, _⟩ | ⟨_, _, he⟩ | ⟨_, hle, he⟩
    · exact absurd hc hne
    · cases he.symm.trans h
      exact ⟨rfl, hstay⟩
    · cases he.symm.trans h
      exact ⟨rfl, 4, hle, rfl⟩
  | registerWrites n =>
    have hn := (hcontract n rfl).trans (contigAvail_le_avail s.cfg hr hw)
    rcases execRegisterWrites_cases n s with ⟨_, he⟩ | ⟨_, he⟩ <;> cases he.symm.trans h <;> exact ⟨rfl, n.toNat, hn, rfl⟩
  | storageWrite a b =>
    rcases execStorageWrite_cases a b s with ⟨_, he⟩ | ⟨_, _, he⟩ | ⟨_, _, he⟩ <;> cases he.symm.trans h <;>
      exact ⟨rfl, hstay⟩
  | _ => simp [Instr.opcode] at hop

/-- The rows only the PRODUCER port may issue (R65). -/
theorem Instr.port_of_producer_row {i : Instr} (hop : i.opcode ∈ [Opcode.pushWord, .registerWrites, .storageWrite]) :
    i.port = .producer := by
  cases i with
  | pushWord v | registerWrites n | storageWrite a b => rfl
  | _ => simp [Instr.opcode] at hop

/-- Settles O58: the commit fits the free space, and the region consists of live bytes, which no producer command changes. -/
theorem consumerRegionStaysValid : Obligations.ConsumerRegionStaysValid := by
  intro i s t hs hne hop hcontract h
  obtain ⟨hcfg, -, -⟩ := exec_sameEnvironment h
  obtain ⟨hridx, n, hn, hwidx⟩ := exec_producer_indices hs hne hop hcontract h
  have hbytes {a : Nat} (hl : s.isLive a = true) : t.byteAt a = s.byteAt a :=
    exec_producer_keeps_live hs hl (Instr.port_of_producer_row hop) h
  obtain ⟨hr, hw, -⟩ := hs
  refine ⟨hridx, ?_, fun k hk => hbytes (live_of_lt_contigUsed s.cfg hr hw hk)⟩
  rw [hcfg, hridx, hwidx]
  exact contigUsed_le_adv_widx s.cfg hr hw hn

end Sys2Proof.Machine
